-- ==== Sys2Proof/Word.lean ====
section
/-! DEFINITION. The engine's word types (00_scope.md R5, R8, R9). Arithmetic on words is that of `BitVec 16`:
two's-complement wraparound on a fixed width (R9, R105). -/

namespace Sys2Proof

/-- A word: a register, a memory word, an immediate, an address, `pc` and a branch target are 16 bits wide (R5, R9). -/
abbrev Word := BitVec 16

/-- A decoded instruction word, the 48-bit form in which the host hands an instruction to the engine (R81). -/
abbrev Diw := BitVec 48

/-- The index of an architectural register, `R0` to `R7` (R21, R86). -/
abbrev Reg := Fin 8

/-- A tag: `none` is NONE, `some p` names the ROB id of a producer, the index of its slot (R10). -/
abbrev Tag := Option Nat

end Sys2Proof
end

