-- ==== Sys2Proof/Syntax.lean ====
section
/-! DEFINITION. The nine instructions of spec/opcode_table.json with the fields each one uses (30_encoding.md R82, R83). -/

namespace Sys2Proof

/-- The nine opcodes, which are also the nine station classes: `class(op) = op` (R2, R6). -/
inductive Opcode where
  | load | store | beq | call | ret | add | addi | nand | mul
  deriving DecidableEq, Repr

/-- Every opcode, in the order in which the source lists them (R82). -/
def Opcode.all : List Opcode := [.load, .store, .beq, .call, .ret, .add, .addi, .nand, .mul]

/-- An instruction: its opcode and the fields that opcode uses; the fields it ignores have no effect (R82). -/
inductive Instr where
  /-- `LOAD rA, rB, offset`: destination, base, offset (R111). -/
  | load (rA rB : Reg) (imm : Word)
  /-- `STORE rA, rB, offset`: data, base, offset (R112). -/
  | store (rA rB : Reg) (imm : Word)
  /-- `BEQ rA, rB, target`: the registers compared, the absolute target (R121). -/
  | beq (rA rB : Reg) (target : Word)
  /-- `CALL target` (R122). -/
  | call (target : Word)
  /-- `RET` (R123). -/
  | ret
  /-- `ADD rA, rB, rC` (R101). -/
  | add (rA rB rC : Reg)
  /-- `ADDI rA, rB, imm` (R102). -/
  | addi (rA rB : Reg) (imm : Word)
  /-- `NAND rA, rB, rC` (R103). -/
  | nand (rA rB rC : Reg)
  /-- `MUL rA, rB, rC` (R104). -/
  | mul (rA rB rC : Reg)
  deriving DecidableEq, Repr

/-- The opcode of an instruction. -/
def Instr.opcode : Instr → Opcode
  | .load _ _ _ => .load
  | .store _ _ _ => .store
  | .beq _ _ _ => .beq
  | .call _ => .call
  | .ret => .ret
  | .add _ _ _ => .add
  | .addi _ _ _ => .addi
  | .nand _ _ _ => .nand
  | .mul _ _ _ => .mul

end Sys2Proof
end

