-- ==== Sys2Proof/Machine/Tables.lean ====
section
/-! DEFINITION. Tables of plain data: one entry for each of the nine classes (00_scope.md R6), one for each of the
eight registers (10_state.md R21, R36). -/

namespace Sys2Proof

/-- A table with one entry for each station class (R6). -/
structure PerClass (α : Type) where
  load : α
  store : α
  beq : α
  call : α
  ret : α
  add : α
  addi : α
  nand : α
  mul : α
  deriving DecidableEq, Repr

/-- The entry of class `c`. -/
def PerClass.get {α : Type} (t : PerClass α) (c : Opcode) : α :=
  match c with
  | .load => t.load
  | .store => t.store
  | .beq => t.beq
  | .call => t.call
  | .ret => t.ret
  | .add => t.add
  | .addi => t.addi
  | .nand => t.nand
  | .mul => t.mul

/-- The table with the entry of class `c` replaced. -/
def PerClass.set {α : Type} (t : PerClass α) (c : Opcode) (v : α) : PerClass α :=
  match c with
  | .load => { t with load := v }
  | .store => { t with store := v }
  | .beq => { t with beq := v }
  | .call => { t with call := v }
  | .ret => { t with ret := v }
  | .add => { t with add := v }
  | .addi => { t with addi := v }
  | .nand => { t with nand := v }
  | .mul => { t with mul := v }

/-- The table whose entry of class `c` is `f c`. -/
def PerClass.ofFn {α : Type} (f : Opcode → α) : PerClass α :=
  { load := f .load, store := f .store, beq := f .beq, call := f .call, ret := f .ret,
    add := f .add, addi := f .addi, nand := f .nand, mul := f .mul }

/-- The table with `f` applied to every entry. -/
def PerClass.map {α β : Type} (f : α → β) (t : PerClass α) : PerClass β :=
  PerClass.ofFn fun c => f (t.get c)

/-- A table with one entry for each architectural register (R21). -/
structure PerReg (α : Type) where
  r0 : α
  r1 : α
  r2 : α
  r3 : α
  r4 : α
  r5 : α
  r6 : α
  r7 : α
  deriving DecidableEq, Repr

/-- The entry of register `r`. -/
def PerReg.get {α : Type} (t : PerReg α) (r : Reg) : α :=
  match r.val with
  | 0 => t.r0
  | 1 => t.r1
  | 2 => t.r2
  | 3 => t.r3
  | 4 => t.r4
  | 5 => t.r5
  | 6 => t.r6
  | _ => t.r7

/-- The table with the entry of register `r` replaced. -/
def PerReg.set {α : Type} (t : PerReg α) (r : Reg) (v : α) : PerReg α :=
  match r.val with
  | 0 => { t with r0 := v }
  | 1 => { t with r1 := v }
  | 2 => { t with r2 := v }
  | 3 => { t with r3 := v }
  | 4 => { t with r4 := v }
  | 5 => { t with r5 := v }
  | 6 => { t with r6 := v }
  | _ => { t with r7 := v }

/-- The table with the same entry for every register. -/
def PerReg.const {α : Type} (v : α) : PerReg α :=
  { r0 := v, r1 := v, r2 := v, r3 := v, r4 := v, r5 := v, r6 := v, r7 := v }

/-- Every register index, `R0` first. -/
def Reg.all : List Reg := [0, 1, 2, 3, 4, 5, 6, 7]

end Sys2Proof
end

