-- ==== Sys2Proof/Config.lean ====
section
/-! DEFINITION. The configuration registers (00_scope.md R5, 10_state.md R26): inputs the host writes while the
engine is stopped, constant during a run. The spec leaves no readable value undefined (R13), so there is no free
value among them. -/

namespace Sys2Proof

/-- The configuration registers of R5 and R26, with the defaults of R5. -/
structure Config where
  /-- `ROB_SIZE`, written `N`: the number of slots of the reorder buffer. -/
  robSize : Nat := 6
  /-- `RS_COUNT[c]`: the number of stations of class `c`. -/
  rsCount : PerClass Nat :=
    { load := 2, store := 1, beq := 1, call := 1, ret := 1, add := 4, addi := 4, nand := 2, mul := 1 }
  /-- `LAT[c]`: the execute latency of class `c`, in cycles. -/
  lat : PerClass Nat :=
    { load := 6, store := 6, beq := 1, call := 1, ret := 1, add := 2, addi := 2, nand := 1, mul := 8 }
  /-- `CYCLE_BUDGET` where the host supplies one; `none` is the default, ten times the program length (R233). -/
  cycleBudget : Option Nat := none
  /-- `START_PC` (D2). -/
  startPC : Word := 0
  /-- `PROG_LEN`. DESIGN CHOICE: 0 until the host sets it (notes/assumptions/13.md). -/
  progLen : Word := 0
  /-- The instruction store `P`, its words as the host supplied them, index 0 first (R60). A word at or beyond
  `PROG_LEN` is not looked at. -/
  prog : List Diw := []
  /-- `REG_INIT`; its entry for `R0` is not looked at (R48). -/
  regInit : PerReg Word := PerReg.const 0
  /-- `MEM_INIT`: (address, value) pairs; a later pair of an address wins (R77). -/
  memInit : List (Word × Word) := []
  deriving DecidableEq, Repr

/-- The configuration with every register at its default (R5). -/
def Config.default : Config := {}

/-- The cycle budget in force: the one supplied, else `10 * PROG_LEN` (R5, R233). -/
def Config.budget (c : Config) : Nat := c.cycleBudget.getD (10 * c.progLen.toNat)

end Sys2Proof
end

