-- ==== Sys2Proof/WellFormed.lean ====
section
/-! DEFINITION. The checks on a configuration and on an instruction that the start of a run makes before its first tick
(60_exceptions.md R252). Every term of `Instr` is a legal instruction by its types: a 3-bit register index and a
16-bit immediate or target admit every value (30_encoding.md R85, R86). Whether a word of the program is legal is
the decoder's question (R88). -/

namespace Sys2Proof

/-- The reorder buffer has a slot: `ROB_SIZE < 1` is a configuration error (R252). -/
def Config.robSizeOk (c : Config) : Bool := decide (1 ≤ c.robSize)

/-- No latency is below 1 (R252, D29); every class is checked, used or not. -/
def Config.latenciesOk (c : Config) : Bool := Opcode.all.all fun op => decide (1 ≤ c.lat.get op)

/-- The class of the instruction has a station: a count of zero for a class the program uses is a configuration
error (R252). -/
def Instr.hasStation (i : Instr) (c : Config) : Bool := decide (1 ≤ c.rsCount.get i.opcode)

end Sys2Proof
end

