-- ==== Sys2Proof/Decode.lean ====
section
/-! DEFINITION. The 48-bit decoded instruction word, read and written (30_encoding.md R81, R82, R88, R89). -/

namespace Sys2Proof

/-- `bits[hi:lo]` of the instruction word, as an unsigned number of `hi - lo + 1` bits (00_scope.md R8). -/
def diwBits (w : Diw) (hi lo : Nat) : Nat := w.toNat / 2 ^ lo % 2 ^ (hi - lo + 1)

/-- The `opcode` field, bits 47:44 (R81). -/
def diwOpcode (w : Diw) : Nat := diwBits w 47 44

/-- The `rA` field, bits 43:41 (R81); every 3-bit value is a register (R86). -/
def diwRA (w : Diw) : Reg := ⟨diwBits w 43 41, Nat.mod_lt _ (by decide)⟩

/-- The `rB` field, bits 40:38 (R81). -/
def diwRB (w : Diw) : Reg := ⟨diwBits w 40 38, Nat.mod_lt _ (by decide)⟩

/-- The `rC` field, bits 37:35 (R81). -/
def diwRC (w : Diw) : Reg := ⟨diwBits w 37 35, Nat.mod_lt _ (by decide)⟩

/-- The reserved field `rsv`, bits 34:32, which must be 0 (R81, R88). -/
def diwRsv (w : Diw) : Nat := diwBits w 34 32

/-- The `imm` field, bits 31:16, taken as it stands (R81, R84). -/
def diwImm (w : Diw) : Word := BitVec.ofNat 16 (diwBits w 31 16)

/-- The `target` field, bits 15:0, an absolute instruction index (R81, R85). -/
def diwTarget (w : Diw) : Word := BitVec.ofNat 16 (diwBits w 15 0)

/-- Why a word is illegal (R88). -/
inductive Illegal where
  /-- The reserved field holds this value, not 0. -/
  | reservedField (value : Nat)
  /-- The opcode is this number, above 8. -/
  | unknownOpcode (value : Nat)
  deriving DecidableEq, Repr

/-- The decoder: total, every 48-bit value is one of the nine instructions or illegal by name (R82, R88, R89).
Fields the opcode does not use are ignored. -/
def decode (w : Diw) : Except Illegal Instr :=
  if diwRsv w ≠ 0 then .error (.reservedField (diwRsv w))
  else
    match diwOpcode w with
    | 0 => .ok (.load (diwRA w) (diwRB w) (diwImm w))
    | 1 => .ok (.store (diwRA w) (diwRB w) (diwImm w))
    | 2 => .ok (.beq (diwRA w) (diwRB w) (diwTarget w))
    | 3 => .ok (.call (diwTarget w))
    | 4 => .ok .ret
    | 5 => .ok (.add (diwRA w) (diwRB w) (diwRC w))
    | 6 => .ok (.addi (diwRA w) (diwRB w) (diwImm w))
    | 7 => .ok (.nand (diwRA w) (diwRB w) (diwRC w))
    | 8 => .ok (.mul (diwRA w) (diwRB w) (diwRC w))
    | n => .error (.unknownOpcode n)

/-- The instruction of a word, `none` where the word is illegal. -/
def decodeOption (w : Diw) : Option Instr :=
  match decode w with
  | .ok i => some i
  | .error _ => none

/-- The value of a word from its fields: `opcode*2^44 + rA*2^41 + rB*2^38 + rC*2^35 + imm*2^16 + target`, with
`rsv` 0 (R81). -/
def diwOf (opcode : Nat) (rA rB rC : Reg) (imm target : Word) : Diw :=
  BitVec.ofNat 48 (opcode * 2 ^ 44 + rA.val * 2 ^ 41 + rB.val * 2 ^ 38 + rC.val * 2 ^ 35
    + imm.toNat * 2 ^ 16 + target.toNat)

/-- The encoder: the word of an instruction by R81 and R82, every field its opcode does not use 0, as an assembler
should write it (R88). -/
def encode : Instr → Diw
  | .load rA rB imm => diwOf 0 rA rB 0 imm 0
  | .store rA rB imm => diwOf 1 rA rB 0 imm 0
  | .beq rA rB target => diwOf 2 rA rB 0 0 target
  | .call target => diwOf 3 0 0 0 0 target
  | .ret => diwOf 4 0 0 0 0 0
  | .add rA rB rC => diwOf 5 rA rB rC 0 0
  | .addi rA rB imm => diwOf 6 rA rB 0 imm 0
  | .nand rA rB rC => diwOf 7 rA rB rC 0 0
  | .mul rA rB rC => diwOf 8 rA rB rC 0 0

/-- The instruction the decoder reads from an instruction whose `nbits` bits are `w` and whose further bits are 0.
There is one instruction length, 48 bits (R81, R90): a number that does not fit is no instruction. -/
def decodeTableWord (nbits w : Nat) : Option Instr :=
  let v := w % 2 ^ nbits
  if v < 2 ^ 48 then decodeOption (BitVec.ofNat 48 v) else none

/-- The instruction at index `i` of the instruction store, `none` where the word is illegal or the host supplied
none (notes/assumptions/7.md). -/
def Config.instrAt (c : Config) (i : Nat) : Option Instr :=
  match c.prog[i]? with
  | some w => decodeOption w
  | none => none

end Sys2Proof
end

