-- ==== Sys2Proof/Machine/Memory.lean ====
section
/-! DEFINITION. The data memory `Mem`: 2^16 words of 16 bits, addressed by word, total, 0 where nothing was written
(20_memory.md R60 to R63). It is held as the list of its nonzero words in ONE canonical form: addresses strictly
rising, no entry equal to what an unlisted address reads as. A cell is a word, not a byte: no byte is addressable and
a model must not introduce bytes (R64, D34; notes/assumptions/2.md). -/

namespace Sys2Proof.Machine

/-- The data memory: (address, word) pairs in canonical form (`Memory.wf`). -/
abbrev Memory := List (Nat × Word)

/-- What an address reads as that no entry lists (R62). -/
def Memory.unlisted : Word := 0

/-- The value the list gives for a numbered address. -/
def Memory.lookup : Memory → Nat → Word
  | [], _ => Memory.unlisted
  | (b, v) :: rest, a => if a = b then v else Memory.lookup rest a

/-- The list with the value at a numbered address replaced: sorted insertion, and the value an unlisted address reads
as removes the entry. -/
def Memory.insert : Memory → Nat → Word → Memory
  | [], a, v => if v = Memory.unlisted then [] else [(a, v)]
  | (b, w) :: rest, a, v =>
    if a < b then
      if v = Memory.unlisted then (b, w) :: rest else (a, v) :: (b, w) :: rest
    else if a = b then
      if v = Memory.unlisted then rest else (a, v) :: rest
    else (b, w) :: Memory.insert rest a v

/-- `MemRead(a, 1)`: the word at word address `a`; it never faults (R61, R62). -/
def Memory.read (m : Memory) (a : Word) : Word := Memory.lookup m a.toNat

/-- `MemWrite(a, 1, v)`: sets the word at `a` and changes no other address (R61). -/
def Memory.write (m : Memory) (a v : Word) : Memory := Memory.insert m a.toNat v

/-- The canonical form: addresses strictly rising and below 2^16, no entry equal to an unlisted word. -/
abbrev Memory.wf (m : Memory) : Prop :=
  List.Pairwise (fun c d : Nat × Word => c.1 < d.1) m ∧
    ∀ c ∈ m, c.1 < 2 ^ 16 ∧ c.2 ≠ Memory.unlisted

/-- The memory image over zeros; of two pairs with one address the later wins (R77, D3). -/
def Memory.ofImage (image : List (Word × Word)) : Memory :=
  image.foldl (fun m p => Memory.write m p.1 p.2) []

end Sys2Proof.Machine
end

