-- ==== Sys2Proof/Machine/State.lean ====
section
/-! DEFINITION. The state of the engine (10_state.md R20): plain data, everything the spec gives the machine and the
configuration registers of R26. A field the spec calls meaningless or unspecified while some bit is 0 (U1) does not
exist in the state then: an idle station, an Empty ROB slot, a value not yet delivered and the value half of an operand
slot that holds a tag are absent (notes/assumptions/3.md). -/

namespace Sys2Proof.Machine

/-- One operand slot of a station, `(Vj, Qj)` or `(Vk, Qk)` (R28): the tag is NONE and the value is present, or the slot
waits on the ROB id of its producer and has no value. -/
inductive Operand where
  | value (v : Word)
  | waits (p : Nat)
  deriving DecidableEq, Repr

/-- The tag of an operand slot (R28). -/
def Operand.tag : Operand → Tag
  | .value _ => none
  | .waits p => some p

/-- What a station has computed when its latency has elapsed (R28): `result`, and `addr` for `LOAD` and `STORE`. -/
structure Result where
  value : Word
  addr : Option Word
  deriving DecidableEq, Repr

/-- A busy reservation station (R28). -/
structure Station where
  /-- The operation it executes. -/
  op : Opcode
  /-- Static index of the instruction: `pc` at its issue. -/
  idx : Word
  /-- The instruction's immediate (0 where its opcode has none; notes/assumptions/4.md). -/
  imm : Word
  /-- Operand slot j. -/
  j : Operand
  /-- Operand slot k. -/
  k : Operand
  /-- Remaining latency, `cyclesLeft`. -/
  left : Nat
  /-- Execution has begun: `execStart` has been stamped. -/
  started : Bool
  /-- The result-ready bit `rr` with `result` and `addr`: present once the latency has elapsed. -/
  result : Option Result
  /-- The ROB backlink. -/
  rob : Nat
  /-- The predicted next `pc`, `idx + 1`. -/
  predPC : Word
  /-- The target a taken branch goes to (0 where the opcode has none; notes/assumptions/4.md). -/
  takenPC : Word
  deriving DecidableEq, Repr

/-- The state of a ROB entry (R32). Empty is the absence of an entry. `committed` lasts only inside Commit (D31). -/
inductive Phase where
  | issued | executing | written | committed
  deriving DecidableEq, Repr

/-- The destination of a ROB entry, `destKind` with its payload (R31). The address of a store is absent until it is
delivered: `addrKnown` is whether it is there (D12). -/
inductive Dest where
  | register (r : Reg)
  | memory (addr : Option Word)
  | none
  deriving DecidableEq, Repr

/-- An in-flight entry of the reorder buffer (R31). -/
structure RobEntry where
  phase : Phase
  op : Opcode
  /-- Static index of the owning instruction. -/
  idx : Word
  /-- Dynamic sequence number of the owning instruction; selects its trace record. -/
  seq : Nat
  dest : Dest
  /-- The result, present once it has been broadcast: `ready` is whether it is there (R31, R33). -/
  value : Option Word
  /-- The speculative flag (R34). -/
  spec : Bool
  /-- The resolved outcome of a `BEQ`, `true` for taken; present once delivered (R31). -/
  outcome : Option Bool
  deriving DecidableEq, Repr

/-- The `ready` bit: the result has been broadcast (R31). -/
def RobEntry.ready (e : RobEntry) : Bool := e.value.isSome

/-- The message of the common data bus (R38); `a` is there when the producer computed an address. -/
structure CdbMsg where
  p : Nat
  v : Word
  a : Option Word
  deriving DecidableEq, Repr

/-- A timing record, one per issued instruction (R47); a stamp is absent until set. -/
structure Record where
  idx : Word
  op : Opcode
  issued : Option Nat := none
  execStart : Option Nat := none
  execEnd : Option Nat := none
  written : Option Nat := none
  committed : Option Nat := none
  deriving DecidableEq, Repr

/-- The five stamps of a timing record (R47, C1). -/
inductive Stamp where
  | issued | execStart | execEnd | written | committed
  deriving DecidableEq, Repr

/-- The end statuses (R251). -/
inductive Status where
  | doneOk | budgetExceeded | configError | decodeError | invariantViolation
  deriving DecidableEq, Repr

/-- The 3-bit code of a status (R27, R251). -/
def Status.code : Status → BitVec 3
  | .doneOk => 0
  | .budgetExceeded => 1
  | .configError => 2
  | .decodeError => 3
  | .invariantViolation => 4

/-- Why a step stops the machine with a fault. -/
inductive Fault where
  /-- Raised by `step` at the start of a tick, when the state breaks an invariant of R29 to R45 (R256, U5). Safe: the
  state gets no continuation, where a run from a start never meets it. -/
  | invariantViolation
  /-- Raised by `step` when Issue meets a word inside the program that is illegal or that the host did not supply, which
  the start check rejects (R88, R89, U10), before the stall tests of R180 (notes/assumptions/17.md). Safe: the model is
  stuck there, as U10 has it. -/
  | illegalWord
  deriving DecidableEq, Repr

/-- Why the model gives an instruction no meaning. -/
inductive Refusal where
  /-- Raised by an arm of `exec` for an instruction with no meaning yet; no arm does. Safe. -/
  | notModelled (mnemonic : String)
  deriving DecidableEq, Repr

/-- The state of the engine (R20) with its configuration registers (R26). -/
structure State where
  /-- The configuration registers; no stage writes them (R20, R26). -/
  cfg : Config
  /-- The architectural registers `x[0..7]` (R21). -/
  x : PerReg Word
  /-- The data memory (R25). -/
  mem : Memory
  /-- The index of the next instruction Issue will look at (R23). -/
  pc : Word
  /-- The station pool; an absent station is one with `busy = 0` (R28). -/
  rs : PerClass (List (Option Station))
  /-- The reorder buffer; an absent entry is an Empty slot (R31). -/
  rob : List (Option RobEntry)
  /-- Next to commit (R31). -/
  head : Nat
  /-- Next to allocate (R31). -/
  tail : Nat
  /-- The register-status (rename) table (R36). -/
  stat : PerReg Tag
  /-- The common data bus latch; absent is `valid = 0` (R38). -/
  cdb : Option CdbMsg
  /-- Number of ticks performed (R27). -/
  cycle : Nat
  /-- Number of entries committed (R27). -/
  retired : Nat
  /-- Number of `BEQ` entries committed (R27). -/
  branches : Nat
  /-- Number of `BEQ` entries committed with outcome taken (R27). -/
  mispred : Nat
  /-- Number of instructions issued: the next dynamic sequence number (R27). -/
  nseq : Nat
  /-- The end status (R27, R251). -/
  status : Status
  /-- Ticks are being performed (R27). -/
  run : Bool
  /-- The timing records, in issue order (R47). -/
  trace : List Record
  deriving DecidableEq, Repr

/-- The machine right after reset, with every configuration register at its default (R48, R280): nothing in flight,
`run` 0, `STATUS` 0. -/
def State.reset : State where
  cfg := Config.default
  x := PerReg.const 0
  mem := []
  pc := 0
  rs :=
    { load := [none, none], store := [none], beq := [none], call := [none], ret := [none],
      add := [none, none, none, none], addi := [none, none, none, none], nand := [none, none], mul := [none] }
  rob := [none, none, none, none, none, none]
  head := 0
  tail := 0
  stat := PerReg.const none
  cdb := none
  cycle := 0
  retired := 0
  branches := 0
  mispred := 0
  nseq := 0
  status := .doneOk
  run := false
  trace := []

end Sys2Proof.Machine
end

