-- ==== Sys2Proof/Machine/Ops.lean ====
section
/-! DEFINITION. The named operations over registers, stations, the reorder buffer and the trace (43_rs_pool.md,
44_rob.md, 46_rollback.md R211, 10_state.md R47), and the one effect every end status has (60_exceptions.md R260):
the engine takes no exception and returns from none (R250, R260, R261). -/

namespace Sys2Proof.Machine

/-! ## Registers (R21, R36) -/

/-- `x[i]`: a read of `R0` always yields 0 (R11, R21). -/
def State.readReg (s : State) (r : Reg) : Word := if r = 0 then 0 else s.x.get r

/-- `x[i] <- v`: dropped when `i = 0` (R11, R21). -/
def State.writeReg (s : State) (r : Reg) (v : Word) : State :=
  if r = 0 then s else { s with x := s.x.set r v }

/-- Set the mapping of a register in the register-status table. -/
def State.setStat (s : State) (r : Reg) (t : Tag) : State := { s with stat := s.stat.set r t }

/-! ## The program counter and the data memory -/

/-- `pc <- t`. -/
def State.setPc (s : State) (t : Word) : State := { s with pc := t }

/-- `MemWrite(a, 1, v)`. -/
def State.writeMem (s : State) (a v : Word) : State := { s with mem := Memory.write s.mem a v }

/-! ## The trace (R47) -/

/-- Set one stamp of a record. -/
def Record.set (r : Record) (f : Stamp) (c : Nat) : Record :=
  match f with
  | .issued => { r with issued := some c }
  | .execStart => { r with execStart := some c }
  | .execEnd => { r with execEnd := some c }
  | .written => { r with written := some c }
  | .committed => { r with committed := some c }

/-- `stamp(seq, f, cycle)` with the number of the current tick (R11, R47). -/
def State.stamp (s : State) (seq : Nat) (f : Stamp) : State :=
  { s with trace := s.trace.modify seq fun r => Record.set r f s.cycle }

/-! ## The reorder buffer (R31, R150 to R156) -/

/-- `N`, the number of slots (R31). -/
def State.n (s : State) : Nat := s.cfg.robSize

/-- The entry in slot `p`; `none` when the slot is Empty. -/
def State.entry (s : State) (p : Nat) : Option RobEntry := s.rob.getD p none

/-- Replace the content of slot `p`. -/
def State.setEntry (s : State) (p : Nat) (e : Option RobEntry) : State := { s with rob := s.rob.set p e }

/-- Change the entry in slot `p`, where there is one. -/
def State.modifyEntry (s : State) (p : Nat) (f : RobEntry → RobEntry) : State :=
  { s with rob := s.rob.modify p (Option.map f) }

/-- `empty := (head = tail)` (R151). -/
def State.robEmpty (s : State) : Bool := s.head == s.tail

/-- `full := ((tail + 1) mod N = head)` (R151). -/
def State.robFull (s : State) : Bool := (s.tail + 1) % s.n == s.head

/-- The number of in-flight entries, `(tail - head) mod N` (R35, R151). -/
def State.count (s : State) : Nat := (s.tail + s.n - s.head) % s.n

/-- `age(p) := (p - head) mod N` (R155). -/
def State.age (s : State) (p : Nat) : Nat := (p + s.n - s.head) % s.n

/-- The ids `head, head+1, .., tail-1`, in program order, oldest first (R35). -/
def State.inFlight (s : State) : List Nat := (List.range s.count).map fun a => (s.head + a) % s.n

/-- The opcode of the entry in slot `p`. -/
def State.opAt (s : State) (p : Nat) : Option Opcode := (s.entry p).map RobEntry.op

/-- Stamp the trace record of the entry in slot `p`. -/
def State.stampEntry (s : State) (p : Nat) (f : Stamp) : State :=
  match s.entry p with
  | some e => s.stamp e.seq f
  | none => s

/-- An entry is Written and ready (R154). -/
def RobEntry.done (e : RobEntry) : Bool := e.phase == .written && e.ready

/-- `headIsReadyToCommit`: the entry at the head, where the buffer is not empty and that entry is Written and ready
(R154). -/
def State.readyHead (s : State) : Option RobEntry :=
  if s.robEmpty then none else (s.entry s.head).filter RobEntry.done

/-- `popHead` (R156). -/
def State.popHead (s : State) : State :=
  { s.setEntry s.head none with head := (s.head + 1) % s.n }

/-- `retInFlight`: some in-flight entry is a `RET` (R181). -/
def State.retInFlight (s : State) : Bool := s.inFlight.any fun p => s.opAt p == some .ret

/-! ## The station pool (R28, R130 to R132) -/

/-- Station `k` of class `c`; `none` when it is not busy or there is no such station. -/
def State.station (s : State) (c : Opcode) (k : Nat) : Option Station := (s.rs.get c).getD k none

/-- Replace the content of station `k` of class `c`. -/
def State.setStation (s : State) (c : Opcode) (k : Nat) (st : Option Station) : State :=
  { s with rs := s.rs.set c ((s.rs.get c).set k st) }

/-- `tryAcquire(c)`: the lowest `k` with `busy = 0`, where there is one (R131, D15). -/
def State.tryAcquire (s : State) (c : Opcode) : Option Nat := (s.rs.get c).findIdx? Option.isNone

/-- `release(s)`: `busy <- 0` (R132). -/
def State.release (s : State) (c : Opcode) (k : Nat) : State := s.setStation c k none

/-- Apply a change to every station of the pool. -/
def State.mapStations (s : State) (f : Option Station → Option Station) : State :=
  { s with rs := s.rs.map (List.map f) }

/-- Every station, as its class and its number, in class order. -/
def State.stationIds (s : State) : List (Opcode × Nat) :=
  Opcode.all.flatMap fun c => (List.range (s.rs.get c).length).map fun k => (c, k)

/-- The busy stations. -/
def State.busyStations (s : State) : List Station :=
  Opcode.all.flatMap fun c => (s.rs.get c).filterMap id

/-- No station has `busy = 1` (R229). -/
def State.allIdle (s : State) : Bool := s.busyStations.isEmpty

/-! ## Squash (R211) -/

/-- What `squashYoungerThan` does to one squashed id `q`: clear the mapping of its destination register where it still
names `q`, release the stations whose backlink is `q`, empty the slot. -/
def State.squashOne (s : State) (q : Nat) : State :=
  let s1 :=
    match (s.entry q).map RobEntry.dest with
    | some (.register r) => if s.stat.get r = some q then s.setStat r none else s
    | _ => s
  let s2 := s1.mapStations fun st => st.filter fun t => t.rob != q
  s2.setEntry q none

/-- `squashYoungerThan(h)`: every in-flight id strictly younger than `h`, then `tail` just past `h` (R211). -/
def State.squashYoungerThan (s : State) (h : Nat) : State :=
  let squashed := s.inFlight.filter fun q => decide (s.age h < s.age q)
  { squashed.foldl State.squashOne s with tail := (h + 1) % s.n }

/-! ## The end of a run (R260) -/

/-- The whole effect of an end status: `run <- 0`, `STATUS <- code` (R260). -/
def State.stop (s : State) (st : Status) : State := { s with run := false, status := st }

end Sys2Proof.Machine
end

