-- ==== Sys2Proof/Machine/Flags.lean ====
section
/-! DEFINITION. The engine has no status flag, condition code or predicate register (10_state.md R24): `BEQ` compares two
registers itself. What stands here is that comparison and the bookkeeping bits of a ROB entry that are computed from
others (R31, R34). -/

namespace Sys2Proof.Machine

/-- The comparison of `BEQ`: 1 when the two 16-bit patterns are equal, else 0 (R121). -/
def equalWord (a b : Word) : Word := if a = b then 1 else 0

/-- The outcome of a `BEQ` in its delivered value, bit 0 (R31, R193). -/
def outcomeBit (v : Word) : Bool := v.getLsbD 0

/-- The opcodes that make younger entries speculative (R34). -/
def speculates (op : Opcode) : Bool := op == .beq || op == .call

/-- Some entry among these ids is a `BEQ` or a `CALL`. -/
def State.anySpeculates (s : State) (ids : List Nat) : Bool :=
  ids.any fun p => (s.opAt p).any speculates

/-- The `spec` bit of an entry with opcode `op` whose older in-flight entries are `older` (R34, D24). -/
def State.specBit (s : State) (op : Opcode) (older : List Nat) : Bool :=
  op == .beq || s.anySpeculates older

/-- The in-flight ids older than `p` (R155). -/
def State.olderThan (s : State) (p : Nat) : List Nat :=
  s.inFlight.filter fun q => decide (s.age q < s.age p)

/-- Recompute the `spec` bit of every entry (R34, R195). -/
def State.recomputeSpec (s : State) : State :=
  { s with rob := s.rob.mapIdx fun p slot =>
      slot.map fun e => { e with spec := s.specBit e.op (s.olderThan p) } }

end Sys2Proof.Machine
end

