-- ==== Sys2Proof/Machine/Operands.lean ====
section
/-! DEFINITION. Operand capture at Issue and the one addressing mode (43_rs_pool.md R133, R134, 41_loadstore.md R110). -/

namespace Sys2Proof.Machine

/-- `capture(r)`: `R0` is 0 with no tag; a register no in-flight instruction will define is read from `x`; a producer
whose result is there gives its value, any other gives its id as the tag (R133). -/
def State.capture (s : State) (r : Reg) : Operand :=
  if r = 0 then .value 0
  else
    match s.stat.get r with
    | none => .value (s.x.get r)
    | some p =>
      match (s.entry p).bind RobEntry.value with
      | some v => .value v
      | none => .waits p

/-- A slot with no source register gets `(0, NONE)` (R134). -/
def noSource : Operand := .value 0

/-- The effective address, `trunc16(base + imm)` (R63, R110). -/
def effectiveAddress (base imm : Word) : Word := base + imm

end Sys2Proof.Machine
end

