-- ==== Sys2Proof/Machine/Issue.lean ====
section
/-! DEFINITION. The Issue stage's handling of one instruction (45_pipeline_driver.md R180 to R184): the shared operation
of which every arm of `exec` is a use. -/

namespace Sys2Proof.Machine

/-- What an instruction asks of Issue: its class, destination and operand slots (R183, R134), the fields its station
keeps, and the `pc` after it (R184). -/
structure IssueRequest where
  op : Opcode
  dest : Dest
  j : Operand
  k : Operand
  imm : Word
  takenPC : Word
  nextPC : Word

/-- The station Issue fills (R183). -/
def State.newStation (s : State) (q : IssueRequest) : Station where
  op := q.op
  idx := s.pc
  imm := q.imm
  j := q.j
  k := q.k
  left := s.cfg.lat.get q.op
  started := false
  result := none
  rob := s.tail
  predPC := s.pc + 1
  takenPC := q.takenPC

/-- The ROB entry Issue allocates (R183). -/
def State.newEntry (s : State) (q : IssueRequest) : RobEntry where
  phase := .issued
  op := q.op
  idx := s.pc
  seq := s.nseq
  dest := q.dest
  value := none
  spec := s.specBit q.op s.inFlight
  outcome := none

/-- The record Issue appends to the trace, stamped `issued` (R183). -/
def State.newRecord (s : State) (q : IssueRequest) : Record :=
  { idx := s.pc, op := q.op, issued := some s.cycle }

/-- The register-status table after the issue: the destination register, if any and not `R0`, names the new entry
(R183, D25). -/
def State.renamed (s : State) (d : Dest) : PerReg Tag :=
  match d with
  | .register r => if r = 0 then s.stat else s.stat.set r (some s.tail)
  | _ => s.stat

/-- Issue, allocation and `pc` update, into station `k` of the class (R183, R184, R152). -/
def State.allocate (s : State) (q : IssueRequest) (k : Nat) : State :=
  { s with
    pc := q.nextPC
    rs := s.rs.set q.op ((s.rs.get q.op).set k (some (s.newStation q)))
    rob := s.rob.set s.tail (some (s.newEntry q))
    tail := (s.tail + 1) % s.n
    stat := s.renamed q.dest
    nseq := s.nseq + 1
    trace := s.trace ++ [s.newRecord q] }

/-- Issue of one instruction: it stays at `pc`, and nothing changes, while a `RET` is in flight, while the ROB is full
and while its class has no free station; otherwise it is allocated (R180, R181). -/
def State.issue (s : State) (q : IssueRequest) : State :=
  if s.retInFlight then s
  else if s.robFull then s
  else
    match s.tryAcquire q.op with
    | none => s
    | some k => s.allocate q k

end Sys2Proof.Machine
end

