-- ==== Sys2Proof/Machine/Retire.lean ====
section
/-! DEFINITION. The architectural side effects Commit performs, shared by the instructions of one shape
(45_pipeline_driver.md R195, R196). -/

namespace Sys2Proof.Machine

/-- `x[e.destReg] <- e.value`, dropped for `R0` (R195). -/
def State.retireRegister (s : State) (e : RobEntry) : State :=
  match e.dest, e.value with
  | .register r, some v => s.writeReg r v
  | _, _ => s

/-- `MemWrite(e.addr, 1, e.value)` (R195). -/
def State.retireMemory (s : State) (e : RobEntry) : State :=
  match e.dest, e.value with
  | .memory (some a), some v => s.writeMem a v
  | _, _ => s

/-- The target of the branch at static index `i`, `P[i].target` (R212). -/
def State.branchTarget (s : State) (i : Word) : Option Word :=
  match s.cfg.instrAt i.toNat with
  | some (.beq _ _ target) => some target
  | _ => none

/-- The misprediction procedure, run at the head: count it, squash everything younger, redirect `pc` (R212). -/
def State.mispredict (s : State) (e : RobEntry) : State :=
  let s1 := State.squashYoungerThan { s with mispred := s.mispred + 1 } s.head
  match s.branchTarget e.idx with
  | some target => s1.setPc target
  | none => s1

end Sys2Proof.Machine
end

