-- ==== Sys2Proof/Machine/Alu.lean ====
section
/-! DEFINITION. ADD, ADDI, NAND, MUL (40_alu.md). For each instruction: `exec<X>`, what Issue does with it; `result<X>`,
what Execute computes from its operand values; `retire<X>`, what Commit does with its entry (R100). -/

namespace Sys2Proof.Machine

/-! ## ADD (R101) -/

/-- Issue of `ADD rA, rB, rC`: slots from `rB` and `rC`, destination `rA` (R101, R134). -/
def execAdd (rA rB rC : Reg) (s : State) : Host.Outcome State Fault Refusal :=
  .next (s.issue
    { op := .add, dest := .register rA, j := s.capture rB, k := s.capture rC, imm := 0, takenPC := 0,
      nextPC := s.pc + 1 })

/-- The result of `ADD`: `trunc16(Vj + Vk)` (R101, R189). -/
def resultAdd (vj vk : Word) : Result := { value := vj + vk, addr := none }

/-- Commit of an `ADD` (R101, R195). -/
def retireAdd (s : State) (e : RobEntry) : State := s.retireRegister e

/-! ## ADDI (R102) -/

/-- Issue of `ADDI rA, rB, imm`: slot j from `rB`, slot k the immediate (R102, R134). -/
def execAddi (rA rB : Reg) (imm : Word) (s : State) : Host.Outcome State Fault Refusal :=
  .next (s.issue
    { op := .addi, dest := .register rA, j := s.capture rB, k := .value imm, imm := imm, takenPC := 0,
      nextPC := s.pc + 1 })

/-- The result of `ADDI`: `trunc16(Vj + imm)`, the immediate in slot k (R102, R189). -/
def resultAddi (vj vk : Word) : Result := { value := vj + vk, addr := none }

/-- Commit of an `ADDI` (R102, R195). -/
def retireAddi (s : State) (e : RobEntry) : State := s.retireRegister e

/-! ## NAND (R103) -/

/-- Issue of `NAND rA, rB, rC` (R103, R134). -/
def execNand (rA rB rC : Reg) (s : State) : Host.Outcome State Fault Refusal :=
  .next (s.issue
    { op := .nand, dest := .register rA, j := s.capture rB, k := s.capture rC, imm := 0, takenPC := 0,
      nextPC := s.pc + 1 })

/-- The result of `NAND`: `(Vj AND Vk) XOR 0xFFFF` (R103, R189). -/
def resultNand (vj vk : Word) : Result := { value := (vj &&& vk) ^^^ 0xFFFF, addr := none }

/-- Commit of a `NAND` (R103, R195). -/
def retireNand (s : State) (e : RobEntry) : State := s.retireRegister e

/-! ## MUL (R104) -/

/-- Issue of `MUL rA, rB, rC` (R104, R134). -/
def execMul (rA rB rC : Reg) (s : State) : Host.Outcome State Fault Refusal :=
  .next (s.issue
    { op := .mul, dest := .register rA, j := s.capture rB, k := s.capture rC, imm := 0, takenPC := 0,
      nextPC := s.pc + 1 })

/-- The result of `MUL`: the low 16 bits of the product (R104, D35, R189). -/
def resultMul (vj vk : Word) : Result := { value := vj * vk, addr := none }

/-- Commit of a `MUL` (R104, R195). -/
def retireMul (s : State) (e : RobEntry) : State := s.retireRegister e

end Sys2Proof.Machine
end

