-- ==== Sys2Proof/Machine/Control.lean ====
section
/-! DEFINITION. BEQ, CALL and RET (42_control.md): what Issue, Execute and Commit do for each. -/

namespace Sys2Proof.Machine

/-! ## BEQ (R121) -/

/-- Issue of `BEQ rA, rB, target`: no register is renamed; `pc` goes to the next index whatever the operands are
(R121, R134, R210). -/
def execBeq (rA rB : Reg) (target : Word) (s : State) : Host.Outcome State Fault Refusal :=
  .next (s.issue
    { op := .beq, dest := .none, j := s.capture rA, k := s.capture rB, imm := 0, takenPC := target,
      nextPC := s.pc + 1 })

/-- The result of `BEQ`: 1 when the two patterns are equal, else 0 (R121, R189). -/
def resultBeq (vj vk : Word) : Result := { value := equalWord vj vk, addr := none }

/-- Commit of a `BEQ`: counted; if taken, the misprediction procedure (R121, R195, R212). -/
def retireBeq (s : State) (e : RobEntry) : State :=
  let s1 := { s with branches := s.branches + 1 }
  if e.outcome = some true then s1.mispredict e else s1

/-! ## CALL (R122) -/

/-- Issue of `CALL target`: destination `R1`; `pc` goes to the target at once (R122, R184, D19). -/
def execCall (target : Word) (s : State) : Host.Outcome State Fault Refusal :=
  .next (s.issue
    { op := .call, dest := .register 1, j := noSource, k := noSource, imm := 0, takenPC := target,
      nextPC := target })

/-- The result of `CALL`: `trunc16(idx + 1)` (R122, R189). -/
def resultCall (idx : Word) : Result := { value := idx + 1, addr := none }

/-- Commit of a `CALL`: writes `R1`, not `pc` (R122, R195, R196). -/
def retireCall (s : State) (e : RobEntry) : State := s.retireRegister e

/-! ## RET (R123) -/

/-- Issue of `RET`: slot j from `R1`; `pc` goes to the next index, where nothing is fetched while the `RET` is in
flight (R123, R134). -/
def execRet (s : State) : Host.Outcome State Fault Refusal :=
  .next (s.issue
    { op := .ret, dest := .none, j := s.capture 1, k := noSource, imm := 0, takenPC := 0,
      nextPC := s.pc + 1 })

/-- The result of `RET`: the value of `R1` (R123, R189). -/
def resultRet (vj : Word) : Result := { value := vj, addr := none }

/-- Commit of a `RET`: `pc <- zext_16(value)` (R123, R195). -/
def retireRet (s : State) (e : RobEntry) : State :=
  match e.value with
  | some v => s.setPc v
  | none => s

end Sys2Proof.Machine
end

