-- ==== Sys2Proof/Machine/LoadStore.lean ====
section
/-! DEFINITION. LOAD and STORE (41_loadstore.md): what Issue, Execute and Commit do for each. -/

namespace Sys2Proof.Machine

/-! ## LOAD (R111) -/

/-- Issue of `LOAD rA, rB, imm`: slot j is the base, slot k unused (R111, R134). -/
def execLoad (rA rB : Reg) (imm : Word) (s : State) : Host.Outcome State Fault Refusal :=
  .next (s.issue
    { op := .load, dest := .register rA, j := s.capture rB, k := noSource, imm := imm, takenPC := 0,
      nextPC := s.pc + 1 })

/-- The result of `LOAD`: the word at `trunc16(Vj + imm)`, read in the tick in which `left` reaches 0 (R69, R111,
R189). -/
def resultLoad (vj imm : Word) (mem : Memory) : Result :=
  { value := Memory.read mem (effectiveAddress vj imm), addr := some (effectiveAddress vj imm) }

/-- Commit of a `LOAD` (R111, R195). -/
def retireLoad (s : State) (e : RobEntry) : State := s.retireRegister e

/-- The entry is a `STORE` whose address is not known or equals `ea` (R188). -/
def RobEntry.holdsLoad (e : RobEntry) (ea : Word) : Bool :=
  e.op == .store &&
    match e.dest with
    | .memory (some a) => a == ea
    | _ => true

/-- `loadBlocked`: some older in-flight `STORE` has an address that is not known or equal to the load's (R188). -/
def State.loadBlocked (s : State) (p : Nat) (ea : Word) : Bool :=
  (s.inFlight.filter fun q => decide (s.age q < s.age p)).any fun q =>
    (s.entry q).any fun e => RobEntry.holdsLoad e ea

/-! ## STORE (R112) -/

/-- Issue of `STORE rA, rB, imm`: slot j is the data, slot k the base; no register is renamed and the address is not
known (R112, R134). -/
def execStore (rA rB : Reg) (imm : Word) (s : State) : Host.Outcome State Fault Refusal :=
  .next (s.issue
    { op := .store, dest := .memory none, j := s.capture rA, k := s.capture rB, imm := imm, takenPC := 0,
      nextPC := s.pc + 1 })

/-- The result of `STORE`: the data, with the address `trunc16(Vk + imm)` (R112, R189). -/
def resultStore (vj vk imm : Word) : Result := { value := vj, addr := some (effectiveAddress vk imm) }

/-- Commit of a `STORE`: the one place that writes `Mem` (R69, R112, R195). -/
def retireStore (s : State) (e : RobEntry) : State := s.retireMemory e

end Sys2Proof.Machine
end

