-- ==== Sys2Proof/Machine/Dispatch.lean ====
section
/-! DEFINITION. One arm per constructor of Instr: what Issue does with the instruction at `pc`
(45_pipeline_driver.md R180 to R184; notes/assumptions/16.md). -/

namespace Sys2Proof.Machine

def exec (i : Instr) (s : State) : Host.Outcome State Fault Refusal :=
  match i with
  | .load rA rB imm => Sys2Proof.Machine.execLoad rA rB imm s
  | .store rA rB imm => Sys2Proof.Machine.execStore rA rB imm s
  | .beq rA rB target => Sys2Proof.Machine.execBeq rA rB target s
  | .call target => Sys2Proof.Machine.execCall target s
  | .ret => Sys2Proof.Machine.execRet s
  | .add rA rB rC => Sys2Proof.Machine.execAdd rA rB rC s
  | .addi rA rB imm => Sys2Proof.Machine.execAddi rA rB imm s
  | .nand rA rB rC => Sys2Proof.Machine.execNand rA rB rC s
  | .mul rA rB rC => Sys2Proof.Machine.execMul rA rB rC s

end Sys2Proof.Machine
end

