-- ==== Sys2Proof/Machine/Stages.lean ====
section
/-! DEFINITION. The stages of the tick besides Issue: Commit, Write (arbitration and delivery) and Execute
(45_pipeline_driver.md R186 to R196). Each instruction's own part of a stage stands in its family's file. -/

namespace Sys2Proof.Machine

/-! ## Commit (R195) -/

/-- The architectural side effect of retiring an entry, by its opcode (R195). -/
def State.sideEffect (s : State) (e : RobEntry) : State :=
  match e.op with
  | .load => retireLoad s e
  | .store => retireStore s e
  | .beq => retireBeq s e
  | .call => retireCall s e
  | .ret => retireRet s e
  | .add => retireAdd s e
  | .addi => retireAddi s e
  | .nand => retireNand s e
  | .mul => retireMul s e

/-- Clear the mapping of the entry's destination register where it still names the entry's id (R195, R196). -/
def State.clearMapping (s : State) (e : RobEntry) (h : Nat) : State :=
  match e.dest with
  | .register r => if s.stat.get r = some h then s.setStat r none else s
  | _ => s

/-- Retire the entry at the head (R195). -/
def State.retire (s : State) (e : RobEntry) : State :=
  let s1 := s.modifyEntry s.head fun e => { e with phase := .committed }
  let s2 := s1.sideEffect e
  let s3 := s2.stamp e.seq .committed
  let s4 := { s3 with retired := s3.retired + 1 }
  let s5 := s4.clearMapping e s.head
  s5.popHead.recomputeSpec

/-- Commit: at most one entry, the head, when it is Written and ready (R195). -/
def State.commit (s : State) : State :=
  match s.readyHead with
  | some e => s.retire e
  | none => s

/-! ## Write, arbitration half (R191) -/

/-- A result-ready station: where it is, its backlink and its result (R136). -/
structure Candidate where
  cls : Opcode
  num : Nat
  rob : Nat
  result : Result
  deriving DecidableEq, Repr

/-- The station as a candidate for the bus, where it is busy and result-ready. -/
def State.candidateAt (s : State) (id : Opcode × Nat) : Option Candidate :=
  match s.station id.1 id.2 with
  | some st => st.result.map fun r => { cls := id.1, num := id.2, rob := st.rob, result := r }
  | none => none

/-- The result-ready stations (R191). -/
def State.candidates (s : State) : List Candidate := s.stationIds.filterMap s.candidateAt

/-- The older of the best candidate so far and the next one. -/
def pickOlder (age : Candidate → Nat) (best : Option Candidate) (c : Candidate) : Option Candidate :=
  match best with
  | none => some c
  | some b => if age c < age b then some c else some b

/-- The candidate with the least age of its backlink (R191, R192, D17). -/
def State.oldestCandidate (s : State) : Option Candidate :=
  s.candidates.foldl (pickOlder fun c => s.age c.rob) none

/-- Write, arbitration half: the oldest result-ready station gets the bus and is released (R191). -/
def State.writeArbitrate (s : State) : State :=
  match s.oldestCandidate with
  | none => s
  | some c =>
    let s1 := { s with cdb := some { p := c.rob, v := c.result.value, a := c.result.addr } }
    (s1.stampEntry c.rob .written).release c.cls c.num

/-! ## Execute (R186) -/

/-- `evaluate(s)` on the operand values, by opcode (R189). -/
def Station.evaluate (st : Station) (vj vk : Word) (mem : Memory) : Result :=
  match st.op with
  | .load => resultLoad vj st.imm mem
  | .store => resultStore vj vk st.imm
  | .beq => resultBeq vj vk
  | .call => resultCall st.idx
  | .ret => resultRet vj
  | .add => resultAdd vj vk
  | .addi => resultAddi vj vk
  | .nand => resultNand vj vk
  | .mul => resultMul vj vk

/-- The disambiguation test holds the station back: it is a `LOAD` and `loadBlocked` holds (R188). -/
def State.heldBack (s : State) (st : Station) (vj : Word) : Bool :=
  st.op == .load && s.loadBlocked st.rob (effectiveAddress vj st.imm)

/-- Begin execution: stamp `execStart`, the entry becomes Executing (R186, R187). -/
def State.beginExecution (s : State) (st : Station) : State :=
  (s.stampEntry st.rob .execStart).modifyEntry st.rob fun e => { e with phase := .executing }

/-- One cycle of execution of a begun station with operand values `vj`, `vk`: count down; at 0, compute the result and
stamp `execEnd` (R186). -/
def State.countDown (s : State) (c : Opcode) (k : Nat) (st : Station) (vj vk : Word) : State :=
  if st.left = 1 then
    (s.setStation c k
      (some { st with left := 0, started := true, result := some (st.evaluate vj vk s.mem) })).stampEntry
        st.rob .execEnd
  else s.setStation c k (some { st with left := st.left - 1, started := true })

/-- The visit of one station whose operands are there and whose `left` is above 0 (R186). -/
def State.visitReady (s : State) (c : Opcode) (k : Nat) (st : Station) (vj vk : Word) : State :=
  if st.started then s.countDown c k st vj vk
  else if s.heldBack st vj then s
  else (s.beginExecution st).countDown c k st vj vk

/-- Execute's visit of one station (R186). -/
def State.visit (s : State) (id : Opcode × Nat) : State :=
  match s.station id.1 id.2 with
  | none => s
  | some st =>
    match st.j, st.k with
    | .value vj, .value vk => if st.left = 0 then s else s.visitReady id.1 id.2 st vj vk
    | _, _ => s

/-- Execute: visit every station once (R186). -/
def State.execute (s : State) : State := s.stationIds.foldl State.visit s

/-! ## Write, delivery half (R193) -/

/-- The snoop on one operand slot (R135). -/
def Operand.snoop (o : Operand) (p : Nat) (v : Word) : Operand :=
  match o with
  | .value w => .value w
  | .waits q => if q = p then .value v else .waits q

/-- The snoop on one station, both slots (R135). -/
def Station.snoop (st : Station) (p : Nat) (v : Word) : Station :=
  { st with j := st.j.snoop p v, k := st.k.snoop p v }

/-- The delivery of a message to its ROB entry: value and ready, Written, the address of a `STORE`, the outcome of a
`BEQ` (R193). -/
def RobEntry.deliver (e : RobEntry) (m : CdbMsg) : RobEntry :=
  { e with
    value := some m.v
    phase := .written
    dest := if e.op = .store then .memory m.a else e.dest
    outcome := if e.op = .beq then some (outcomeBit m.v) else e.outcome }

/-- Write, delivery half, at the end of the tick (R193). -/
def State.writeDeliver (s : State) : State :=
  match s.cdb with
  | none => s
  | some m =>
    let s1 := s.modifyEntry m.p fun e => RobEntry.deliver e m
    let s2 := s1.mapStations fun st => st.map fun t => Station.snoop t m.p m.v
    { s2 with cdb := none }

/-! ## The tick around Issue (R170) -/

/-- The part of the tick before Issue: the cycle count, Commit, Write arbitration, Execute (R170). -/
def State.beforeIssue (s : State) : State :=
  let s1 := { s with cycle := s.cycle + 1 }
  s1.commit.writeArbitrate.execute

/-! ## The end of a run (R229, R230) -/

/-- `done`: `pc` is past the program, no station is busy, the ROB is empty (R229). -/
def State.done (s : State) : Bool := decide (s.cfg.progLen ≤ s.pc) && s.allIdle && s.robEmpty

/-- The tests after each tick: `done` first, then the budget (R230, D28). -/
def State.runControl (s : State) : State :=
  if s.done then s.stop .doneOk
  else if s.cfg.budget ≤ s.cycle then s.stop .budgetExceeded
  else s

/-- What follows Issue in the tick, and the tests after it (R170, R230). -/
def State.afterIssue (s : State) : State := s.writeDeliver.runControl

end Sys2Proof.Machine
end

