-- ==== Sys2Proof/Machine/Invariants.lean ====
section
/-! DEFINITION. The invariants of the tick boundary as one test on a state (10_state.md R29 to R45, as far as they speak
of one state), which `step` makes before a tick: a state that breaks one is an invariant violation and gets no
continuation (60_exceptions.md R256, U5; notes/assumptions/9.md). Safety.lean says the same as a proposition. -/

namespace Sys2Proof.Machine

/-! ## The reorder buffer (R31, R32, R33, R35) -/

/-- The buffer has `N` slots, `N >= 1`, its indices are slots, and exactly the in-flight slots are non-Empty (R31,
R35). -/
def State.robShapeOk (s : State) : Bool :=
  s.rob.length == s.n && decide (s.head < s.n) && decide (s.tail < s.n) &&
    (List.range s.n).all fun p => (s.entry p).isSome == decide (s.age p < s.count)

/-- The destination of an entry is that of its instruction; a store's address is known exactly when its result is
there (R183, R193). -/
def destOk (i : Instr) (e : RobEntry) : Bool :=
  match i with
  | .load rA _ _ => e.dest == .register rA
  | .store _ _ _ =>
    match e.dest with
    | .memory a => a.isSome == e.value.isSome
    | _ => false
  | .beq _ _ _ => e.dest == .none
  | .call _ => e.dest == .register 1
  | .ret => e.dest == .none
  | .add rA _ _ => e.dest == .register rA
  | .addi rA _ _ => e.dest == .register rA
  | .nand rA _ _ => e.dest == .register rA
  | .mul rA _ _ => e.dest == .register rA

/-- The entry owns an instruction of the program, by its static index (R183). -/
def State.ownsInstr (s : State) (e : RobEntry) : Bool :=
  decide (e.idx < s.cfg.progLen) &&
    match s.cfg.instrAt e.idx.toNat with
    | some i => i.opcode == e.op && destOk i e
    | none => false

/-- An in-flight entry: never Committed at a tick boundary (R32), Written exactly when its value is there (R33), its
outcome that of its value (R31), its `seq` one of an issued instruction (R183), its `spec` bit as R34 has it. -/
def State.entryOk (s : State) (p : Nat) (e : RobEntry) : Bool :=
  e.phase != .committed &&
    (e.phase == .written) == e.value.isSome &&
    e.outcome == (if e.op = .beq then e.value.map outcomeBit else none) &&
    decide (e.seq < s.nseq) &&
    e.spec == s.specBit e.op (s.olderThan p) &&
    s.ownsInstr e

/-- Every in-flight entry is as `entryOk` has it. -/
def State.entriesOk (s : State) : Bool :=
  s.inFlight.all fun p =>
    match s.entry p with
    | some e => s.entryOk p e
    | none => false

/-! ## The register-status table (R36, R37) -/

/-- The slot holds an entry whose destination is register `r`. -/
def State.writes (s : State) (r : Reg) (p : Nat) : Bool :=
  (s.entry p).any fun e => e.dest == .register r

/-- The youngest in-flight entry whose destination is `r`; none for `R0` (R36, R37). -/
def State.youngestWriter (s : State) (r : Reg) : Tag :=
  if r = 0 then none else s.inFlight.reverse.find? (s.writes r)

/-- `stat[r]` names the youngest in-flight writer of `r` (R37). -/
def State.statOk (s : State) : Bool := Reg.all.all fun r => s.stat.get r == s.youngestWriter r

/-! ## The stations (R29, R44, R45) -/

/-- A tag held by a station names an older in-flight entry that is not yet delivered (R45). -/
def State.operandOk (s : State) (rob : Nat) (o : Operand) : Bool :=
  match o with
  | .value _ => true
  | .waits q =>
    match s.entry q with
    | some e => decide (s.age q < s.age rob) && !e.ready
    | none => false

/-- The operand slot holds a value. -/
def Operand.present (o : Operand) : Bool := o.tag.isNone

/-- A busy station of class `c`: its opcode is the class (R6, R28); its entry is in flight, Issued before it begins and
Executing after (R32, R44); it has begun only with both operands there; its countdown stands at the latency until it
begins and at 0 exactly when it is result-ready (R28, R136); a store's result has its address (R112); its tags are as
R45 has them. -/
def State.stationOk (s : State) (c : Opcode) (st : Station) : Bool :=
  st.op == c &&
    (match s.entry st.rob with
      | some e => e.op == c && e.idx == st.idx && e.phase == (if st.started then .executing else .issued)
      | none => false) &&
    (if st.started then st.j.present && st.k.present && decide (st.left < s.cfg.lat.get c)
      else decide (st.left = s.cfg.lat.get c)) &&
    st.result.isSome == decide (st.left = 0) &&
    (match st.result with
      | some r => r.addr.isSome == (c == .load || c == .store)
      | none => true) &&
    s.operandOk st.rob st.j && s.operandOk st.rob st.k

/-- Every class has its configured number of stations, every busy one as `stationOk` has it (R28). -/
def State.stationsOk (s : State) : Bool :=
  Opcode.all.all fun c =>
    (s.rs.get c).length == s.cfg.rsCount.get c &&
      (s.rs.get c).all (Option.all (s.stationOk c))

/-- The number of busy stations whose backlink is `p`. -/
def State.stationsOf (s : State) (p : Nat) : Nat :=
  (s.busyStations.filter fun st => st.rob == p).length

/-- An entry that is Issued or Executing has exactly one busy station, a Written one none (R33, R44). -/
def State.backlinksOk (s : State) : Bool :=
  s.inFlight.all fun p =>
    s.stationsOf p == (if (s.entry p).any RobEntry.ready then 0 else 1)

/-! ## The rest -/

/-- Every invariant of the tick boundary: no latency below 1 (R252, D29), the latch empty (R38), `R0` zero (R39), the
memory in canonical form, one trace record for each issued instruction (R47), and the checks above. -/
def State.invariantsHold (s : State) : Bool :=
  s.cfg.latenciesOk && s.robShapeOk && s.entriesOk && s.statOk && s.stationsOk && s.backlinksOk &&
    s.cdb.isNone && s.x.get 0 == 0 && decide (Memory.wf s.mem) && s.trace.length == s.nseq

end Sys2Proof.Machine
end

