-- ==== Sys2Proof/Machine/Start.lean ====
section
/-! DEFINITION. Reset, start and the host's writes of the configuration (70_reset_and_hazards.md R280 to R282,
60_exceptions.md R252, R254, R259). "A model takes the configuration as a record and start as a function" (D7). -/

namespace Sys2Proof.Machine

/-- The state of R48 for a configuration: registers from `REG_INIT` with `R0` zero, memory from `MEM_INIT` over zeros,
`pc` at `START_PC`, everything else empty or zero, `run` 0 and `STATUS` 0. -/
def State.initial (c : Config) : State where
  cfg := c
  x := c.regInit.set 0 0
  mem := Memory.ofImage c.memInit
  pc := c.startPC
  rs := c.rsCount.map fun n => List.replicate n none
  rob := List.replicate c.robSize none
  head := 0
  tail := 0
  stat := PerReg.const none
  cdb := none
  cycle := 0
  retired := 0
  branches := 0
  mispred := 0
  nseq := 0
  status := .doneOk
  run := false
  trace := []

/-- The start check of one word of the program: illegal, or of a class with no station (R252, R254). -/
def checkWord (c : Config) (i : Nat) : Option Status :=
  match c.instrAt i with
  | none => some .decodeError
  | some ins => if ins.hasStation c then none else some .configError

/-- The start checks in their order; the first that fails gives the status (R259). -/
def startCheck (c : Config) : Option Status :=
  if !c.robSizeOk then some .configError
  else if !c.latenciesOk then some .configError
  else (List.range c.progLen.toNat).findSome? (checkWord c)

/-- Start: the state of R48, then the checks; where one fails its status is set and `run` stays 0, else `run <- 1`
(R281). -/
def State.started (c : Config) : State :=
  match startCheck c with
  | some st => { State.initial c with status := st }
  | none => { State.initial c with run := true }

/-- The host's start request. While `run = 1` it is no move (R282, U12). -/
def State.start? (s : State) : Option State := if s.run then none else some (State.started s.cfg)

/-- The host writes the configuration registers. While `run = 1` it is no move (R282, U12). -/
def State.configure? (s : State) (c : Config) : Option State := if s.run then none else some { s with cfg := c }

/-- Reset, at any time: every piece of state at its value of R48, computed with the configuration inputs as they stand
(R280). -/
def State.hardReset (s : State) : State := State.initial s.cfg

/-- The program with the word at index `i` replaced; the words before it that the host has not supplied become 0. -/
def storeWord : List Diw → Nat → Diw → List Diw
  | [], 0, w => [w]
  | [], i + 1, w => 0 :: storeWord [] i w
  | _ :: rest, 0, w => w :: rest
  | v :: rest, i + 1, w => v :: storeWord rest i w

/-- The configuration with a word placed at index `i` of the program, and the program made long enough to hold it. -/
def withWord (c : Config) (i : Word) (w : Diw) : Config :=
  { c with prog := storeWord c.prog i.toNat w, progLen := if i < c.progLen then c.progLen else i + 1 }

end Sys2Proof.Machine
end

