-- ==== Sys2Proof/Machine/Step.lean ====
section
/-! DEFINITION. One step: the tick (45_pipeline_driver.md R170) with the run control around it (47_pc_run_control.md
R230). -/

namespace Sys2Proof.Machine

/-- Issue in the tick: nothing where `pc` is past the program (R180, R227), else `exec` of the instruction at `pc`; a
word that is illegal leaves the machine stuck (R89, U10). DESIGN CHOICE: the word is decoded before the stall tests, which
stand in `exec`, so an illegal word is met even where a `RET` in flight or a full ROB would hold Issue back
(notes/assumptions/17.md). -/
def State.fetchIssue (s : State) : Host.Outcome State Fault Refusal :=
  if s.pc < s.cfg.progLen then
    match s.cfg.instrAt s.pc.toNat with
    | some i => exec i s
    | none => .fault .illegalWord
  else .next s

/-- The rest of the tick after an outcome of Issue (R170, R230). -/
def finishTick (o : Host.Outcome State Fault Refusal) : Host.Outcome State Fault Refusal :=
  match o with
  | .next s => .next s.afterIssue
  | .fault r => .fault r
  | .refused r => .refused r

/-- One step of the engine. A stopped engine performs no tick and its state is stable (R260, R261, R268, R282). A state
that breaks an invariant is a fault (R256, U5). Otherwise one tick and the tests after it (R170, R230). -/
def step (s : State) : Host.Outcome State Fault Refusal :=
  if !s.run then .next s
  else if !s.invariantsHold then .fault .invariantViolation
  else finishTick s.beforeIssue.fetchIssue

/-- The state with an instruction placed where step fetches its next one: the word at index `pc` of the program, and the
engine running. It stands for the host's loading and starting of a program (notes/assumptions/6.md). -/
def State.withFetchWord (s : State) (nbits w : Nat) : State :=
  { s with cfg := withWord s.cfg s.pc (BitVec.ofNat 48 (w % 2 ^ nbits)), run := true }

end Sys2Proof.Machine
end

