-- ==== Sys2Proof/Machine/Sequential.lean ====
section
/-! DEFINITION. The architectural effect of each instruction, as its rule states it (40_alu.md R101 to R104,
41_loadstore.md R111, R112, 42_control.md R121 to R123), and the machine that executes instructions one at a time in
program order: what claims compare the engine with (70_reset_and_hazards.md R290). `step` does not use it. -/

namespace Sys2Proof.Machine

/-- What a program computes on: the registers, the memory, the program counter (R20). -/
structure Arch where
  x : PerReg Word
  mem : Memory
  pc : Word
  deriving DecidableEq, Repr

/-- A register as an instruction reads it: `R0` is 0 (R21). -/
def Arch.reg (a : Arch) (r : Reg) : Word := if r = 0 then 0 else a.x.get r

/-- Write a register, dropped for `R0`, and go to the next index. -/
def Arch.put (a : Arch) (r : Reg) (v : Word) : Arch :=
  { a with x := if r = 0 then a.x else a.x.set r v, pc := a.pc + 1 }

/-- The architectural effect of an instruction. -/
def Arch.effect (a : Arch) (i : Instr) : Arch :=
  match i with
  | .load rA rB imm => a.put rA (Memory.read a.mem (a.reg rB + imm))
  | .store rA rB imm => { a with mem := Memory.write a.mem (a.reg rB + imm) (a.reg rA), pc := a.pc + 1 }
  | .beq rA rB target => { a with pc := if a.reg rA = a.reg rB then target else a.pc + 1 }
  | .call target => { a.put 1 (a.pc + 1) with pc := target }
  | .ret => { a with pc := a.reg 1 }
  | .add rA rB rC => a.put rA (a.reg rB + a.reg rC)
  | .addi rA rB imm => a.put rA (a.reg rB + imm)
  | .nand rA rB rC => a.put rA (~~~(a.reg rB &&& a.reg rC))
  | .mul rA rB rC => a.put rA (a.reg rB * a.reg rC)

/-- One instruction of the program in program order; none where `pc` is past the program (R290) or the word is
illegal. -/
def Arch.next (c : Config) (a : Arch) : Option Arch :=
  if a.pc < c.progLen then (c.instrAt a.pc.toNat).map a.effect else none

/-- `n` instructions in program order. -/
def Arch.run (c : Config) : Nat → Arch → Option Arch
  | 0, a => some a
  | n + 1, a => (Arch.run c n a).bind (Arch.next c)

/-! ## The predicted path

In-flight instructions are those the engine fetched: a `BEQ` is taken to fall through, a `CALL` goes to its target, and
what follows a `RET` is not fetched while it is in flight (R181, R184). -/

/-- The source values of an instruction, as R134 puts them in slots j and k. -/
def Arch.sources (a : Arch) (i : Instr) : Word × Word :=
  match i with
  | .load _ rB _ => (a.reg rB, 0)
  | .store rA rB _ => (a.reg rA, a.reg rB)
  | .beq rA rB _ => (a.reg rA, a.reg rB)
  | .call _ => (0, 0)
  | .ret => (a.reg 1, 0)
  | .add _ rB rC => (a.reg rB, a.reg rC)
  | .addi _ rB imm => (a.reg rB, imm)
  | .nand _ rB rC => (a.reg rB, a.reg rC)
  | .mul _ rB rC => (a.reg rB, a.reg rC)

/-- The value an instruction delivers (R101 to R104, R111, R112, R121 to R123). -/
def Arch.value (a : Arch) (i : Instr) : Word :=
  match i with
  | .load _ rB imm => Memory.read a.mem (a.reg rB + imm)
  | .store rA _ _ => a.reg rA
  | .beq rA rB _ => if a.reg rA = a.reg rB then 1 else 0
  | .call _ => a.pc + 1
  | .ret => a.reg 1
  | .add _ rB rC => a.reg rB + a.reg rC
  | .addi _ rB imm => a.reg rB + imm
  | .nand _ rB rC => ~~~(a.reg rB &&& a.reg rC)
  | .mul _ rB rC => a.reg rB * a.reg rC

/-- The address a `LOAD` or `STORE` computes (R110); no other instruction has one. -/
def Arch.address (a : Arch) (i : Instr) : Option Word :=
  match i with
  | .load _ rB imm => some (a.reg rB + imm)
  | .store _ rB imm => some (a.reg rB + imm)
  | .beq _ _ _ => none
  | .call _ => none
  | .ret => none
  | .add _ _ _ => none
  | .addi _ _ _ => none
  | .nand _ _ _ => none
  | .mul _ _ _ => none

/-- The index Issue goes to after an instruction (R184). -/
def Instr.fetchedNext (i : Instr) (pc : Word) : Word :=
  match i with
  | .load _ _ _ => pc + 1
  | .store _ _ _ => pc + 1
  | .beq _ _ _ => pc + 1
  | .call target => target
  | .ret => pc + 1
  | .add _ _ _ => pc + 1
  | .addi _ _ _ => pc + 1
  | .nand _ _ _ => pc + 1
  | .mul _ _ _ => pc + 1

/-- The effect of an instruction on the registers and the memory, with the `pc` Issue goes on from (R184). -/
def Arch.predicted (a : Arch) (i : Instr) : Arch := { a.effect i with pc := Instr.fetchedNext i a.pc }

/-- `n` instructions along the predicted path; it ends at a word that is illegal. -/
def Arch.follow (c : Config) : Nat → Arch → Arch
  | 0, a => a
  | n + 1, a =>
    let b := Arch.follow c n a
    match c.instrAt b.pc.toNat with
    | some i => b.predicted i
    | none => b

/-- The architectural state before the oldest in-flight instruction: the committed registers and memory, and the index of
that instruction, or `pc` where nothing is in flight. -/
def State.frontier (s : State) : Arch where
  x := s.x
  mem := s.mem
  pc :=
    if s.head = s.tail then s.pc
    else
      match s.entry s.head with
      | some e => e.idx
      | none => s.pc

/-- The architectural state before the in-flight instruction in slot `p`, along the predicted path. -/
def State.archBefore (s : State) (p : Nat) : Arch := Arch.follow s.cfg (s.age p) s.frontier

/-- The architectural part of a state. -/
def State.arch (s : State) : Arch := { x := s.x, mem := s.mem, pc := s.pc }

end Sys2Proof.Machine
end

