-- ==== Sys2Proof/Safety.lean ====
section
/-! DEFINITION. What claims about the engine are stated in: runs of `step`, states reached from a start, the invariants of
the tick boundary (10_state.md R29 to R45), of the trace and of the simulation of the sequential machine as propositions,
what an issued or retired instruction leaves behind, and the timing record of an instruction that meets no
contention. -/

namespace Sys2Proof.Machine

/-! ## Runs -/

/-- `k` steps, stopping at the first fault or refusal. -/
def steps : Nat → State → Host.Outcome State Fault Refusal
  | 0, s => .next s
  | k + 1, s =>
    match steps k s with
    | .next t => step t
    | .fault r => .fault r
    | .refused r => .refused r

/-- The state is reached in some number of steps from a start whose checks pass (R281, R284). -/
def Reached (c : Config) (t : State) : Prop :=
  startCheck c = none ∧ ∃ k, steps k (State.started c) = .next t

/-- A safe outcome: the step gave a next state, neither a fault nor a refusal. -/
def Safe (o : Host.Outcome State Fault Refusal) : Prop := ∃ t, o = .next t

/-- Every word of the program is one of the nine instructions (R89). -/
def ProgramLegal (c : Config) : Prop := ∀ i, i < c.progLen.toNat → ∃ ins, c.instrAt i = some ins

/-- The slot is in flight: between `head` and `tail` (R35). -/
def State.InFlight (s : State) (p : Nat) : Prop := p < s.n ∧ s.age p < s.count

/-! ## The invariants of the tick boundary -/

/-- What holds of an in-flight entry (R31, R32, R33, R34, R183). -/
structure EntryInv (s : State) (p : Nat) (e : RobEntry) : Prop where
  /-- Committed is never seen at a tick boundary (R32). -/
  notCommitted : e.phase ≠ .committed
  /-- Written exactly when ready with its value (R33). -/
  writtenIffReady : e.phase = .written ↔ e.value.isSome = true
  /-- The outcome of a `BEQ` is bit 0 of its value; nothing else has one (R31). -/
  outcomeOfValue : e.outcome = if e.op = .beq then e.value.map outcomeBit else none
  /-- The entry's `seq` is that of an issued instruction (R183). -/
  seqIssued : e.seq < s.nseq
  /-- The `spec` bit (R34). -/
  specBit : e.spec = s.specBit e.op (s.olderThan p)
  /-- The entry owns an instruction of the program (R183). -/
  idxInProgram : e.idx < s.cfg.progLen
  owner : ∃ i, s.cfg.instrAt e.idx.toNat = some i ∧ i.opcode = e.op ∧ destOk i e = true

/-- A tag names an older entry that is in flight and not yet delivered (R45). -/
def TagInv (s : State) (rob : Nat) (o : Operand) : Prop :=
  ∀ q, o = .waits q → ∃ e, s.entry q = some e ∧ s.age q < s.age rob ∧ e.value = none

/-- What holds of a busy station of class `c` (R28, R29, R44, R45, R136). -/
structure StationInv (s : State) (c : Opcode) (st : Station) : Prop where
  /-- The opcode is the class (R6, R28). -/
  opIsClass : st.op = c
  /-- Its entry is Issued until it begins and Executing after (R32, R44). -/
  backlink : ∃ e, s.entry st.rob = some e ∧ e.op = c ∧ e.idx = st.idx ∧
    e.phase = if st.started then .executing else .issued
  /-- The countdown is at the latency until the station begins, below it after, with both operands there (R186). -/
  notBegun : st.started = false → st.left = s.cfg.lat.get c
  begun : st.started = true → st.j.tag = none ∧ st.k.tag = none ∧ st.left < s.cfg.lat.get c
  /-- Result-ready exactly when the countdown is at 0 (R136). -/
  resultReady : st.result.isSome = true ↔ st.left = 0
  /-- The result of a `LOAD` or `STORE` has its address, no other has one (R189). -/
  resultAddress : ∀ r, st.result = some r → (r.addr.isSome = true ↔ (c = .load ∨ c = .store))
  /-- The tags (R45). -/
  tagJ : TagInv s st.rob st.j
  tagK : TagInv s st.rob st.k

/-- The invariants of the tick boundary (R29 to R45, as far as they speak of one state). -/
structure Inv (s : State) : Prop where
  /-- No latency is below 1 (R252, D29). -/
  latencies : ∀ c, 1 ≤ s.cfg.lat.get c
  /-- The buffer has `N` slots and its indices are slots (R31). -/
  robLength : s.rob.length = s.n
  headLt : s.head < s.n
  tailLt : s.tail < s.n
  /-- The non-Empty slots are exactly those in flight (R35). -/
  occupied : ∀ p, p < s.n → ((s.entry p).isSome = true ↔ s.age p < s.count)
  entries : ∀ p e, s.entry p = some e → EntryInv s p e
  /-- `stat[r]` names the youngest in-flight writer of `r`; none for `R0` (R36, R37). -/
  statYoungest : ∀ r, s.stat.get r = s.youngestWriter r
  /-- The station counts are those configured (R28). -/
  stationCount : ∀ c, (s.rs.get c).length = s.cfg.rsCount.get c
  stations : ∀ c k st, s.station c k = some st → StationInv s c st
  /-- An entry not yet delivered has exactly one busy station, a delivered one none (R33, R44). -/
  backlinks : ∀ p e, s.entry p = some e → s.stationsOf p = if e.value.isSome then 0 else 1
  /-- The latch is empty (R38). -/
  latchEmpty : s.cdb = none
  /-- `R0` is 0 (R39). -/
  r0 : s.x.get 0 = 0
  /-- The memory is in canonical form. -/
  memory : Memory.wf s.mem
  /-- One trace record for each issued instruction (R47). -/
  traceLength : s.trace.length = s.nseq

/-- Nothing is in flight: the state at a start, and after a run that finished. -/
structure Quiet (s : State) : Prop where
  inv : Inv s
  running : s.run = true
  nothingInFlight : s.head = s.tail

/-! ## The invariant of the trace (R41, R42, R43, R47) -/

/-- What holds of every record at the end of cycle `cycle`: a stamp is there only after the one before it, in the order of
R42 with the strictness the spec derives, none lies in the future, and a finished execution took the latency of the
opcode (R43). -/
structure RecordInv (c : Config) (cycle : Nat) (r : Record) : Prop where
  issued : ∃ a ∈ r.issued, a ≤ cycle
  execStart : ∀ b ∈ r.execStart, (∃ a ∈ r.issued, a < b) ∧ b ≤ cycle
  execEnd : ∀ d ∈ r.execEnd, (∃ b ∈ r.execStart, b ≤ d ∧ d + 1 = b + c.lat.get r.op) ∧ d ≤ cycle
  written : ∀ w ∈ r.written, (∃ d ∈ r.execEnd, d < w) ∧ w ≤ cycle
  committed : ∀ f ∈ r.committed, (∃ w ∈ r.written, w < f) ∧ f ≤ cycle

/-- The invariant of the trace at the tick boundary. -/
structure TraceInv (s : State) : Prop where
  records : ∀ r ∈ s.trace, RecordInv s.cfg s.cycle r
  /-- The record of an in-flight entry is that of its instruction, has begun and is written as its phase says, and is not
  committed (R32, R47). -/
  owned : ∀ p < s.n, ∀ e ∈ s.entry p, ∃ r ∈ s.trace[e.seq]?, r.idx = e.idx ∧ r.op = e.op ∧ r.committed = none ∧
    (r.execStart.isSome = true ↔ e.phase ≠ .issued) ∧ (r.written.isSome = true ↔ e.phase = .written)
  /-- Sequence numbers rise with age (R155, R183). -/
  seqRises : ∀ p < s.n, ∀ q < s.n, ∀ e ∈ s.entry p, ∀ f ∈ s.entry q, s.age p < s.age q → e.seq < f.seq
  /-- A begun station has been visited in every cycle since its `execStart`, and is result-ready exactly when its record
  has `execEnd` (R186). -/
  begun : ∀ st ∈ s.busyStations, st.started = true → ∀ e ∈ s.entry st.rob, ∀ r ∈ s.trace[e.seq]?,
    ∃ b ∈ r.execStart, (0 < st.left → r.execEnd = none ∧ s.cycle + 1 + st.left = b + s.cfg.lat.get st.op) ∧
      (st.left = 0 → r.execEnd.isSome = true)
  /-- Committed stamps rise with the sequence number (R41). -/
  retiredInOrder : s.trace.Pairwise fun r r' => ∀ a ∈ r.committed, ∀ b ∈ r'.committed, a < b
  /-- A committed instruction is older than every one in flight (R157). -/
  retiredOlder : ∀ p < s.n, ∀ e ∈ s.entry p, ∀ n < s.trace.length, ∀ r ∈ s.trace[n]?,
    r.committed.isSome = true → n < e.seq

/-- Every record of `s` stands at its place in `t`, for the same instruction and with every stamp it already had (R47). -/
def RecordsKept (s t : State) : Prop :=
  ∀ (n : Nat) (r : Record), s.trace[n]? = some r →
    ∃ r', t.trace[n]? = some r' ∧ r'.idx = r.idx ∧ r'.op = r.op ∧
      (∀ a, r.issued = some a → r'.issued = some a) ∧ (∀ a, r.execStart = some a → r'.execStart = some a) ∧
      (∀ a, r.execEnd = some a → r'.execEnd = some a) ∧ (∀ a, r.written = some a → r'.written = some a) ∧
      (∀ a, r.committed = some a → r'.committed = some a)

/-! ## The simulation of the sequential machine (R290) -/

/-- The word an operand slot stands for: the one it holds, or the one that the entry it waits on will deliver. -/
def State.standsFor (s : State) (o : Operand) : Option Word :=
  match o with
  | .value v => some v
  | .waits q => (s.entry q).bind fun e => (s.cfg.instrAt e.idx.toNat).map (s.archBefore q).value

/-- What holds of a busy station with the instruction it executes. -/
structure StationSim (s : State) (st : Station) (i : Instr) : Prop where
  slotJ : s.standsFor st.j = some ((s.archBefore st.rob).sources i).1
  slotK : s.standsFor st.k = some ((s.archBefore st.rob).sources i).2
  /-- A `LOAD` or `STORE` station holds what its address is computed with. -/
  immLoad : st.op = .load →
    (s.archBefore st.rob).address i = some (((s.archBefore st.rob).sources i).1 + st.imm)
  immStore : st.op = .store →
    (s.archBefore st.rob).address i = some (((s.archBefore st.rob).sources i).2 + st.imm)
  /-- A computed result is the instruction's. -/
  result : st.result = none ∨ st.result = some ⟨(s.archBefore st.rob).value i, (s.archBefore st.rob).address i⟩
  /-- Every older store of a load that has begun has a known address, another than the load's (R188). -/
  unblocked : st.op = .load → st.started = true → ∀ q < s.n, ∀ e ∈ s.entry q, s.age q < s.age st.rob →
    e.op = .store → e.dest ≠ .memory none ∧ e.dest ≠ .memory ((s.archBefore st.rob).address i)

/-- The engine simulates the sequential machine: the committed registers and memory are those of the retired number of
instructions in program order, the in-flight entries are the next instructions along the predicted path, and what they
have delivered, computed or captured is what that path gives. -/
structure SimInv (s : State) : Prop where
  frontier : Arch.run s.cfg s.retired (State.initial s.cfg).arch = some s.frontier
  onPath : ∀ p < s.n, ∀ e ∈ s.entry p, e.idx = (s.archBefore p).pc
  fetch : s.pc = (Arch.follow s.cfg s.count s.frontier).pc
  /-- A `RET` in flight is the youngest entry (R181). -/
  retYoungest : ∀ p < s.n, ∀ e ∈ s.entry p, e.op = .ret → s.age p + 1 = s.count
  delivered : ∀ p < s.n, ∀ e ∈ s.entry p, ∀ i ∈ s.cfg.instrAt e.idx.toNat,
    e.value = none ∨ e.value = some ((s.archBefore p).value i) ∧
      (e.op = .store → e.dest = .memory ((s.archBefore p).address i))
  stations : ∀ st ∈ s.busyStations, ∀ i ∈ s.cfg.instrAt st.idx.toNat, StationSim s st i

/-! ## Issue -/

/-- Issue accepts an instruction of class `c`, into station `k`: no `RET` is in flight, the ROB is not full, and `k` is
the lowest free station of the class (R180). -/
structure Accepts (s : State) (c : Opcode) (k : Nat) : Prop where
  noRet : s.retInFlight = false
  notFull : (s.tail + 1) % s.cfg.robSize ≠ s.head
  free : k < (s.rs.get c).length ∧ s.station c k = none
  lowest : ∀ k', k' < k → (s.station c k').isSome = true
  tailSlot : s.tail < s.rob.length

/-- `t` is `s` after an instruction was issued into station `k` of its class: the station and the ROB entry are filled
as R183 has it, the destination register is renamed, `pc` is `nextPC`, and nothing else changed. -/
structure IssuedInto (s t : State) (c : Opcode) (k : Nat) (d : Dest) (j kk : Operand) (imm takenPC nextPC : Word) :
    Prop where
  /-- The station (R183). -/
  station : t.station c k = some
    { op := c, idx := s.pc, imm := imm, j := j, k := kk, left := s.cfg.lat.get c, started := false, result := none,
      rob := s.tail, predPC := s.pc + 1, takenPC := takenPC }
  /-- The ROB entry (R183, R34). -/
  entry : t.entry s.tail = some
    { phase := .issued, op := c, idx := s.pc, seq := s.nseq, dest := d, value := none,
      spec := decide (c = .beq) || s.anySpeculates s.inFlight, outcome := none }
  /-- `tail`, `nseq` and `pc` (R152, R183, R184). -/
  tail : t.tail = (s.tail + 1) % s.cfg.robSize
  nseq : t.nseq = s.nseq + 1
  pc : t.pc = nextPC
  /-- The record (R183). -/
  trace : t.trace = s.trace ++ [{ idx := s.pc, op := c, issued := some s.cycle }]
  /-- The rename, for a destination register other than `R0`; every other mapping is kept (R183). -/
  renamed : ∀ r, d = .register r → r ≠ 0 → t.stat.get r = some s.tail
  statKept : ∀ r, ¬(d = .register r ∧ r ≠ 0) → t.stat.get r = s.stat.get r
  /-- Every other station and slot is kept. -/
  stationsKept : ∀ c' k', ¬(c' = c ∧ k' = k) → t.station c' k' = s.station c' k'
  entriesKept : ∀ p, p ≠ s.tail → t.entry p = s.entry p
  /-- Every register, every word of memory and every other piece of state is kept. -/
  registers : ∀ r, t.x.get r = s.x.get r
  memory : ∀ a, Memory.read t.mem a = Memory.read s.mem a
  rest : t.cfg = s.cfg ∧ t.head = s.head ∧ t.cdb = s.cdb ∧ t.cycle = s.cycle ∧ t.retired = s.retired ∧
    t.branches = s.branches ∧ t.mispred = s.mispred ∧ t.status = s.status ∧ t.run = s.run

/-! ## Commit -/

/-- `t` is `s` after the head entry `e` was retired, besides its side effect: the head is popped, its record is stamped, it
is counted; the other slots are kept up to the recomputed `spec` bit, and every other record, the stations and the rest
of the engine's bookkeeping are kept (R156, R195). -/
structure HeadRetired (s t : State) (e : RobEntry) : Prop where
  head : t.head = (s.head + 1) % s.cfg.robSize
  popped : t.entry s.head = none
  emptyKept : ∀ p, p ≠ s.head → s.entry p = none → t.entry p = none
  entriesKept : ∀ p e', p ≠ s.head → s.entry p = some e' → ∃ b, t.entry p = some { e' with spec := b }
  stamped : ∀ rec, s.trace[e.seq]? = some rec → t.trace[e.seq]? = some { rec with committed := some s.cycle }
  recordsKept : ∀ n, n ≠ e.seq → t.trace[n]? = s.trace[n]?
  retired : t.retired = s.retired + 1
  rest : t.rs = s.rs ∧ t.tail = s.tail ∧ t.cdb = s.cdb ∧ t.nseq = s.nseq ∧ t.cycle = s.cycle ∧ t.cfg = s.cfg ∧
    t.status = s.status ∧ t.run = s.run

/-! ## Timing -/

/-- The record of an instruction of latency `latency` issued in cycle `c` that meets no contention and is the head when
it is written (R197). -/
def uncontendedRecord (idx : Word) (op : Opcode) (c latency : Nat) : Record where
  idx := idx
  op := op
  issued := some c
  execStart := some (c + 1)
  execEnd := some (c + latency)
  written := some (c + latency + 1)
  committed := some (c + latency + 2)

end Sys2Proof.Machine
end

