-- ==== Sys2Proof/Certificates/Slice0/Obligations.lean ====
section
/-! DEFINITION. The statements for the provers. Each docstring names the rule of spec/ the statement rests on. -/

open Sys2Proof Sys2Proof.Machine

/-! ## Encoding -/

/-- Words written out bit by bit from the encoding of R81 and R82, one or more of each opcode, decode to the instruction
they stand for; fields an opcode ignores may hold anything. -/
def Obligations.TableWordsDecode : Prop :=
  decode 0x0FC080000000 = .ok (.load 7 7 0x8000) ∧
  decode 0x1A00000C0000 = .ok (.store 5 0 12) ∧
  decode 0x20000000FFFF = .ok (.beq 0 0 0xFFFF) ∧
  decode 0x300000000004 = .ok (.call 4) ∧
  decode 0x4FF8FFFFFFFF = .ok .ret ∧
  decode 0x565000000000 = .ok (.add 3 1 2) ∧
  decode 0x62387FFF1234 = .ok (.addi 1 0 0x7FFF) ∧
  decode 0x7B2000000000 = .ok (.nand 5 4 4) ∧
  decode 0x8FF8FFFFFFFF = .ok (.mul 7 7 7)

/-- Decoding the word of an instruction gives the instruction back, with every operand at every value (R81, R82). -/
def Obligations.DecodeOfEncode : Prop := ∀ i : Instr, decode (encode i) = .ok i

/-- A word is illegal exactly when its opcode field is above 8 or its reserved field is not 0 (R88). -/
def Obligations.IllegalWordsExactly : Prop :=
  ∀ w : Diw, (∃ r, decode w = .error r) ↔ (8 < w.toNat / 2 ^ 44 ∨ w.toNat / 2 ^ 32 % 8 ≠ 0)

/-- Two words that agree in the opcode, in the reserved field and in the fields the opcode uses decode alike (R82). -/
def Obligations.IgnoredFieldsHaveNoEffect : Prop :=
  ∀ w w' : Diw,
    diwBits w 47 44 = diwBits w' 47 44 →
    diwBits w 34 32 = diwBits w' 34 32 →
    (diwBits w 47 44 ∈ [0, 1, 2, 5, 6, 7, 8] →
      diwBits w 43 41 = diwBits w' 43 41 ∧ diwBits w 40 38 = diwBits w' 40 38) →
    (diwBits w 47 44 ∈ [5, 7, 8] → diwBits w 37 35 = diwBits w' 37 35) →
    (diwBits w 47 44 ∈ [0, 1, 6] → diwBits w 31 16 = diwBits w' 31 16) →
    (diwBits w 47 44 ∈ [2, 3] → diwBits w 15 0 = diwBits w' 15 0) →
    decode w = decode w'

/-! ## The step and the instruction it runs -/

/-- When the word at the program counter, as Commit leaves it, decodes to an instruction, the step is `exec` of that
instruction on the state before Issue, then the rest of the tick. The order of the stages is R170's: the state
before Issue is the state found with `cycle` one higher, after Commit, then Write arbitration, then Execute; the
rest of the tick is Write delivery, and then the tests of the run loop (R230). That Issue reads the `pc` Commit
wrote is R226, which the spec derives from R170. Where nothing is ready to commit, that program counter is the one
the step found. -/
def Obligations.StepRunsDecodedInstruction : Prop :=
  ∀ (s : State) (w : Diw) (i : Instr),
    s.run = true → Inv s →
    s.beforeIssue.pc < s.cfg.progLen → s.cfg.prog[s.beforeIssue.pc.toNat]? = some w → decode w = .ok i →
    step s = finishTick (exec i s.beforeIssue) ∧
      s.beforeIssue = State.execute (State.writeArbitrate (State.commit { s with cycle := s.cycle + 1 })) ∧
      (∀ t, exec i s.beforeIssue = .next t → step s = .next (State.runControl (State.writeDeliver t))) ∧
      s.beforeIssue.cycle = s.cycle + 1 ∧ s.beforeIssue.cfg = s.cfg ∧ s.beforeIssue.nseq = s.nseq ∧
      (s.readyHead = none → s.beforeIssue.pc = s.pc)

/-- While `pc` is past the program Issue does nothing: the tick goes on without it and no instruction is issued (R180,
R227). -/
def Obligations.PastProgramNothingIssues : Prop :=
  ∀ s : State, s.run = true → Inv s → s.cfg.progLen ≤ s.beforeIssue.pc →
    step s = .next s.beforeIssue.afterIssue ∧ s.beforeIssue.afterIssue.nseq = s.nseq

/-- When a step stops, for every state: an invariant violation exactly where the engine runs and the state breaks the
invariant of the tick boundary (R256); an illegal word exactly where the invariant holds and the word at the program
counter, as Commit leaves it, is inside the program and is none of the nine instructions, which a start rejects
(R88; that Issue then never meets one is R89, which the spec derives); a step is never refused. That a state which
breaks an invariant gets no continuation, and that the machine is stuck at an illegal word it meets, are the spec's
U5 and U10. The model's choices are that the invariant is tested at the start of the tick and holds clauses added to
R29 to R45 (log 9), that a word below `PROG_LEN` which the host has not supplied counts as illegal (log 7), and that
an illegal word is met even where a `RET` in flight or a full ROB would make Issue stall (log 17); log 8 is the stop
itself. -/
def Obligations.StepStopsExactly : Prop :=
  ∀ s : State,
    (step s = .fault .invariantViolation ↔ s.run = true ∧ ¬ Inv s) ∧
    (step s = .fault .illegalWord ↔ s.run = true ∧ Inv s ∧ s.beforeIssue.pc < s.cfg.progLen ∧
      s.cfg.instrAt s.beforeIssue.pc.toNat = none) ∧
    ∀ r, step s ≠ .refused r

/-! ## Issue of each instruction (R180, R183, R184 with the slots of R134)

In each, the station's immediate or target is left open where the instruction has none (U11). -/

/-- `ADD` accepted by Issue: slots from `rB` and `rC`, destination `rA`, the next index. -/
def Obligations.AddIssues : Prop :=
  ∀ (s : State) (rA rB rC : Reg) (k : Nat), Accepts s .add k →
    ∃ t imm target, exec (.add rA rB rC) s = .next t ∧
      IssuedInto s t .add k (.register rA) (s.capture rB) (s.capture rC) imm target (s.pc + 1)

/-- `ADDI` accepted by Issue: slot j from `rB`, slot k the immediate. -/
def Obligations.AddiIssues : Prop :=
  ∀ (s : State) (rA rB : Reg) (imm : Word) (k : Nat), Accepts s .addi k →
    ∃ t target, exec (.addi rA rB imm) s = .next t ∧
      IssuedInto s t .addi k (.register rA) (s.capture rB) (.value imm) imm target (s.pc + 1)

/-- `NAND` accepted by Issue. -/
def Obligations.NandIssues : Prop :=
  ∀ (s : State) (rA rB rC : Reg) (k : Nat), Accepts s .nand k →
    ∃ t imm target, exec (.nand rA rB rC) s = .next t ∧
      IssuedInto s t .nand k (.register rA) (s.capture rB) (s.capture rC) imm target (s.pc + 1)

/-- `MUL` accepted by Issue. -/
def Obligations.MulIssues : Prop :=
  ∀ (s : State) (rA rB rC : Reg) (k : Nat), Accepts s .mul k →
    ∃ t imm target, exec (.mul rA rB rC) s = .next t ∧
      IssuedInto s t .mul k (.register rA) (s.capture rB) (s.capture rC) imm target (s.pc + 1)

/-- `LOAD` accepted by Issue: slot j is the base, slot k is `(0, NONE)`. -/
def Obligations.LoadIssues : Prop :=
  ∀ (s : State) (rA rB : Reg) (imm : Word) (k : Nat), Accepts s .load k →
    ∃ t target, exec (.load rA rB imm) s = .next t ∧
      IssuedInto s t .load k (.register rA) (s.capture rB) (.value 0) imm target (s.pc + 1)

/-- `STORE` accepted by Issue: slot j is the data, slot k the base; no register is renamed, the address is not known. -/
def Obligations.StoreIssues : Prop :=
  ∀ (s : State) (rA rB : Reg) (imm : Word) (k : Nat), Accepts s .store k →
    ∃ t target, exec (.store rA rB imm) s = .next t ∧
      IssuedInto s t .store k (.memory none) (s.capture rA) (s.capture rB) imm target (s.pc + 1)

/-- `BEQ` accepted by Issue: no register is renamed, `pc` goes to the next index whatever the operands are. -/
def Obligations.BeqIssues : Prop :=
  ∀ (s : State) (rA rB : Reg) (target : Word) (k : Nat), Accepts s .beq k →
    ∃ t imm, exec (.beq rA rB target) s = .next t ∧
      IssuedInto s t .beq k .none (s.capture rA) (s.capture rB) imm target (s.pc + 1)

/-- `CALL` accepted by Issue: destination `R1`, both slots `(0, NONE)`, `pc` goes to the target. -/
def Obligations.CallIssues : Prop :=
  ∀ (s : State) (target : Word) (k : Nat), Accepts s .call k →
    ∃ t imm, exec (.call target) s = .next t ∧
      IssuedInto s t .call k (.register 1) (.value 0) (.value 0) imm target target

/-- `RET` accepted by Issue: slot j from `R1`, no register is renamed. -/
def Obligations.RetIssues : Prop :=
  ∀ (s : State) (k : Nat), Accepts s .ret k →
    ∃ t imm target, exec .ret s = .next t ∧
      IssuedInto s t .ret k .none (s.capture 1) (.value 0) imm target (s.pc + 1)

/-- Every instruction stays at `pc`, with no state changed, while a `RET` is in flight, while the ROB is full, and while
every station of its class is busy (R180, R181, R257). -/
def Obligations.IssueStallsUnchanged : Prop :=
  ∀ (i : Instr) (s : State),
    ((∃ p ∈ s.inFlight, ∃ e, s.entry p = some e ∧ e.op = .ret) ∨
      (s.tail + 1) % s.cfg.robSize = s.head ∨
      ∀ k, k < (s.rs.get i.opcode).length → (s.station i.opcode k).isSome = true) →
    exec i s = .next s

/-- Operand capture (R133): `R0` is 0 with no tag; a register with no mapping is read from `x`; a producer that is ready
gives its value; one that is not gives its id. -/
def Obligations.CaptureByRenameTable : Prop :=
  ∀ s : State,
    s.capture 0 = .value 0 ∧
    (∀ r, r ≠ 0 → s.stat.get r = none → s.capture r = .value (s.x.get r)) ∧
    (∀ r p e v, r ≠ 0 → s.stat.get r = some p → s.entry p = some e → e.value = some v → s.capture r = .value v) ∧
    (∀ r p e, r ≠ 0 → s.stat.get r = some p → s.entry p = some e → e.value = none → s.capture r = .waits p)

/-! ## Execute -/

/-- The result table of R189, with the arithmetic on 16 bits written out; `addr` is set only for `LOAD` and `STORE`. -/
def Obligations.ResultTable : Prop :=
  ∀ (st : Station) (vj vk : Word) (mem : Memory),
    (st.op = .add → st.evaluate vj vk mem = ⟨BitVec.ofNat 16 (vj.toNat + vk.toNat), none⟩) ∧
    (st.op = .addi → st.evaluate vj vk mem = ⟨BitVec.ofNat 16 (vj.toNat + vk.toNat), none⟩) ∧
    (st.op = .nand → st.evaluate vj vk mem = ⟨(vj &&& vk) ^^^ 0xFFFF, none⟩) ∧
    (st.op = .mul → st.evaluate vj vk mem = ⟨BitVec.ofNat 16 (vj.toNat * vk.toNat), none⟩) ∧
    (st.op = .load → st.evaluate vj vk mem =
      ⟨Memory.read mem (BitVec.ofNat 16 (vj.toNat + st.imm.toNat)),
        some (BitVec.ofNat 16 (vj.toNat + st.imm.toNat))⟩) ∧
    (st.op = .store → st.evaluate vj vk mem = ⟨vj, some (BitVec.ofNat 16 (vk.toNat + st.imm.toNat))⟩) ∧
    (st.op = .beq → vj = vk → st.evaluate vj vk mem = ⟨1, none⟩) ∧
    (st.op = .beq → vj ≠ vk → st.evaluate vj vk mem = ⟨0, none⟩) ∧
    (st.op = .call → st.evaluate vj vk mem = ⟨BitVec.ofNat 16 (st.idx.toNat + 1), none⟩) ∧
    (st.op = .ret → st.evaluate vj vk mem = ⟨vj, none⟩)

/-- A visit of a station with both operands and `left` above 0 that is begun, or is no load held back: it begins if it
had not, counts down by one, and at 0 has its result; its entry becomes Executing when it begins, its record gets
`execStart` and `execEnd`, nothing else changes (R186, R187). -/
def Obligations.VisitAdvancesStation : Prop :=
  ∀ (s : State) (c : Opcode) (k : Nat) (st : Station) (vj vk : Word) (e : RobEntry) (r : Record),
    s.station c k = some st → st.j = .value vj → st.k = .value vk → 0 < st.left →
    (st.started = true ∨ ¬(st.op = .load ∧ s.loadBlocked st.rob (vj + st.imm) = true)) →
    s.entry st.rob = some e → s.trace[e.seq]? = some r →
    let t := s.visit (c, k)
    t.station c k = some
      { st with
        left := st.left - 1
        started := true
        result := if st.left = 1 then some (st.evaluate vj vk s.mem) else st.result } ∧
    (∀ c' k', ¬(c' = c ∧ k' = k) → t.station c' k' = s.station c' k') ∧
    t.entry st.rob = some (if st.started then e else { e with phase := .executing }) ∧
    (∀ p, p ≠ st.rob → t.entry p = s.entry p) ∧
    t.trace[e.seq]? = some
      { r with
        execStart := if st.started then r.execStart else some s.cycle
        execEnd := if st.left = 1 then some s.cycle else r.execEnd } ∧
    (∀ n, n ≠ e.seq → t.trace[n]? = s.trace[n]?) ∧
    t.x = s.x ∧ t.mem = s.mem ∧ t.pc = s.pc ∧ t.stat = s.stat ∧ t.head = s.head ∧ t.tail = s.tail ∧ t.cfg = s.cfg ∧
    t.cdb = s.cdb ∧ t.cycle = s.cycle ∧ t.retired = s.retired ∧ t.branches = s.branches ∧ t.mispred = s.mispred ∧
    t.nseq = s.nseq ∧ t.status = s.status ∧ t.run = s.run

/-- A visit does nothing to a station that waits on an operand, to one whose countdown is at 0, and to a load that has
not begun and is blocked (R186, R188). -/
def Obligations.VisitSkipsStation : Prop :=
  ∀ (s : State) (c : Opcode) (k : Nat) (st : Station), s.station c k = some st →
    ((∃ q, st.j = .waits q ∨ st.k = .waits q) ∨ st.left = 0 ∨
      ∃ vj, st.j = .value vj ∧ st.started = false ∧ st.op = .load ∧
        s.loadBlocked st.rob (vj + st.imm) = true) →
    s.visit (c, k) = s

/-- A load is blocked exactly when some older in-flight `STORE` has an address that is not known or equals the load's
(R188). -/
def Obligations.LoadBlockedExactly : Prop :=
  ∀ (s : State) (p : Nat) (ea : Word), s.head < s.cfg.robSize →
    (s.loadBlocked p ea = true ↔
      ∃ q e, s.InFlight q ∧ s.age q < s.age p ∧ s.entry q = some e ∧ e.op = .store ∧
        ∀ a, e.dest = .memory (some a) → a = ea)

/-- Execute visits every station once and the visits are independent of one another: each station ends as its own visit
alone leaves it (R186). -/
def Obligations.VisitsAreIndependent : Prop :=
  ∀ (s : State) (c : Opcode) (k : Nat), s.execute.station c k = (s.visit (c, k)).station c k

/-! ## Write -/

/-- Where some station is result-ready, the one whose entry is strictly older than every other's gets the bus, is
stamped `written` and released; the entries and every other station are kept (R191, R192). -/
def Obligations.ArbitrationPicksOldest : Prop :=
  ∀ s : State, Inv s → (∃ c k st, s.station c k = some st ∧ st.result ≠ none) →
    ∃ c k st r e, s.station c k = some st ∧ st.result = some r ∧ s.entry st.rob = some e ∧
      (∀ c' k' st', s.station c' k' = some st' → st'.result ≠ none → ¬(c' = c ∧ k' = k) →
        s.age st.rob < s.age st'.rob) ∧
      s.writeArbitrate.cdb = some { p := st.rob, v := r.value, a := r.addr } ∧
      s.writeArbitrate.station c k = none ∧
      (∀ c' k', ¬(c' = c ∧ k' = k) → s.writeArbitrate.station c' k' = s.station c' k') ∧
      (∀ rec, s.trace[e.seq]? = some rec →
        s.writeArbitrate.trace[e.seq]? = some { rec with written := some s.cycle }) ∧
      (∀ n, n ≠ e.seq → s.writeArbitrate.trace[n]? = s.trace[n]?) ∧
      s.writeArbitrate.rob = s.rob ∧ s.writeArbitrate.x = s.x ∧ s.writeArbitrate.mem = s.mem

/-- At most one station writes to the CDB in a cycle: a station that arbitration releases is the only one, and where
none is result-ready arbitration changes nothing (R40, R191). -/
def Obligations.OneBroadcastPerCycle : Prop :=
  ∀ s : State,
    (∀ c k c' k', s.station c k ≠ none → s.writeArbitrate.station c k = none →
      s.station c' k' ≠ none → s.writeArbitrate.station c' k' = none → c = c' ∧ k = k') ∧
    ((∀ c k st, s.station c k = some st → st.result = none) → s.writeArbitrate = s)

/-- Delivery: the entry of the message gets its value, is Written, a `STORE`'s entry gets the address and a `BEQ`'s the
outcome; both slots of every busy station that hold the id get the value; the latch is emptied; registers and memory
are kept (R135, R193). -/
def Obligations.DeliveryFillsWaiters : Prop :=
  ∀ (s : State) (m : CdbMsg) (e : RobEntry), s.cdb = some m → s.entry m.p = some e →
    (∃ e', s.writeDeliver.entry m.p = some e' ∧ e'.value = some m.v ∧ e'.phase = .written ∧
      e'.op = e.op ∧ e'.idx = e.idx ∧ e'.seq = e.seq ∧ e'.spec = e.spec ∧
      (e.op = .store → e'.dest = .memory m.a) ∧ (e.op ≠ .store → e'.dest = e.dest) ∧
      (e.op = .beq → e'.outcome = some (m.v.getLsbD 0)) ∧ (e.op ≠ .beq → e'.outcome = e.outcome)) ∧
    (∀ p, p ≠ m.p → s.writeDeliver.entry p = s.entry p) ∧
    (∀ c k, s.station c k = none → s.writeDeliver.station c k = none) ∧
    (∀ c k st, s.station c k = some st → s.writeDeliver.station c k = some
      { st with
        j := if st.j = .waits m.p then .value m.v else st.j
        k := if st.k = .waits m.p then .value m.v else st.k }) ∧
    s.writeDeliver.cdb = none ∧ s.writeDeliver.x = s.x ∧ s.writeDeliver.mem = s.mem ∧
    s.writeDeliver.stat = s.stat ∧ s.writeDeliver.pc = s.pc ∧ s.writeDeliver.trace = s.trace

/-! ## Commit -/

/-- Commit of a `LOAD`, `CALL`, `ADD`, `ADDI`, `NAND` or `MUL` at the head, Written and ready: its value goes to its
destination register, dropped for `R0`; the mapping of that register is cleared only if it still names the entry;
the head is popped, stamped and counted; memory, `pc`, the stations and every other register are kept (R195; the
kept parts are R196, which the spec derives from R195). -/
def Obligations.CommitWritesRegister : Prop :=
  ∀ (s : State) (e : RobEntry) (r : Reg) (v : Word) (rec : Record),
    s.readyHead = some e → e.op ∈ [Opcode.load, .call, .add, .addi, .nand, .mul] →
    e.dest = .register r → e.value = some v → s.trace[e.seq]? = some rec →
    (∀ q, s.commit.x.get q = if q = r ∧ r ≠ 0 then v else s.x.get q) ∧
    (∀ q, s.commit.stat.get q = if q = r ∧ s.stat.get r = some s.head then none else s.stat.get q) ∧
    (∀ a, Memory.read s.commit.mem a = Memory.read s.mem a) ∧
    s.commit.pc = s.pc ∧ s.commit.rs = s.rs ∧ s.commit.tail = s.tail ∧
    s.commit.head = (s.head + 1) % s.cfg.robSize ∧ s.commit.entry s.head = none ∧
    (∀ p, p ≠ s.head → s.entry p = none → s.commit.entry p = none) ∧
    (∀ p e', p ≠ s.head → s.entry p = some e' → ∃ b, s.commit.entry p = some { e' with spec := b }) ∧
    s.commit.trace[e.seq]? = some { rec with committed := some s.cycle } ∧
    (∀ n, n ≠ e.seq → s.commit.trace[n]? = s.trace[n]?) ∧
    s.commit.retired = s.retired + 1 ∧ s.commit.branches = s.branches ∧ s.commit.mispred = s.mispred ∧
    s.commit.cdb = s.cdb ∧ s.commit.nseq = s.nseq ∧ s.commit.cycle = s.cycle ∧ s.commit.cfg = s.cfg

/-- Commit of a `STORE` at the head, Written and ready: its value goes to its address; every other word of memory, every
register, every mapping and `pc` are kept; the head is popped, its record gets the `committed` stamp, it is counted;
the other slots are kept up to `spec`, and every other record, the stations, the latch and the rest are kept (R61,
R69, R156, R195; the kept parts are R196, which the spec derives from R195). -/
def Obligations.CommitWritesMemory : Prop :=
  ∀ (s : State) (e : RobEntry) (a v : Word),
    s.readyHead = some e → e.op = .store → e.dest = .memory (some a) → e.value = some v → Memory.wf s.mem →
    Memory.read s.commit.mem a = v ∧
    (∀ b, b ≠ a → Memory.read s.commit.mem b = Memory.read s.mem b) ∧
    s.commit.x = s.x ∧ s.commit.stat = s.stat ∧ s.commit.pc = s.pc ∧
    s.commit.branches = s.branches ∧ s.commit.mispred = s.mispred ∧ HeadRetired s s.commit e

/-- Commit of a `BEQ` not taken writes nothing but the counters, besides the retirement every head gets: it is popped,
its record gets the `committed` stamp, it is counted as retired and as a branch; the other slots are kept up to
`spec`, and every register, every word of memory, every mapping, `pc`, every other record, the stations, the latch
and the rest are kept (R121, R156, R195, and R196, which the spec derives from R195). -/
def Obligations.CommitBeqNotTaken : Prop :=
  ∀ (s : State) (e : RobEntry),
    s.readyHead = some e → e.op = .beq → e.dest = .none → e.outcome = some false →
    s.commit.branches = s.branches + 1 ∧ s.commit.mispred = s.mispred ∧
    s.commit.x = s.x ∧ s.commit.mem = s.mem ∧ s.commit.stat = s.stat ∧ s.commit.pc = s.pc ∧
    HeadRetired s s.commit e

/-- Commit of a taken `BEQ` counts a misprediction, redirects `pc` to the target and empties the machine: no entry is in
flight, no station is busy, every mapping is NONE; its record gets the `committed` stamp and every other record is
kept; registers, memory and the other counters are kept (R195, R211, R212; that the machine is empty is R213, which
the spec derives from R157, R211 and R37; that the trace and the counters are not rolled back is R216). -/
def Obligations.CommitBeqTakenEmptiesMachine : Prop :=
  ∀ (s : State) (e : RobEntry) (rA rB : Reg) (target : Word),
    Inv s → s.readyHead = some e → e.op = .beq → e.outcome = some true →
    s.cfg.instrAt e.idx.toNat = some (.beq rA rB target) →
    s.commit.pc = target ∧ s.commit.branches = s.branches + 1 ∧ s.commit.mispred = s.mispred + 1 ∧
    s.commit.retired = s.retired + 1 ∧ s.commit.head = s.commit.tail ∧
    s.commit.head = (s.head + 1) % s.cfg.robSize ∧
    (∀ p, s.commit.entry p = none) ∧ (∀ c k, s.commit.station c k = none) ∧ (∀ r, s.commit.stat.get r = none) ∧
    (∀ rec, s.trace[e.seq]? = some rec → s.commit.trace[e.seq]? = some { rec with committed := some s.cycle }) ∧
    (∀ n, n ≠ e.seq → s.commit.trace[n]? = s.trace[n]?) ∧
    s.commit.x = s.x ∧ s.commit.mem = s.mem ∧ s.commit.nseq = s.nseq ∧ s.commit.cycle = s.cycle ∧
    s.commit.cdb = s.cdb ∧ s.commit.cfg = s.cfg ∧ s.commit.status = s.status ∧ s.commit.run = s.run

/-- Commit of a `RET` sends `pc` to the value of `R1` it carried and counts no branch; the head is popped, its record
gets the `committed` stamp, it is counted as retired; the other slots are kept up to `spec`, and every register,
every word of memory, every mapping, every other record, the stations, the latch and the rest are kept (R123, R156,
R195, R235). -/
def Obligations.CommitRetRedirects : Prop :=
  ∀ (s : State) (e : RobEntry) (v : Word),
    s.readyHead = some e → e.op = .ret → e.dest = .none → e.value = some v →
    s.commit.pc = v ∧ s.commit.branches = s.branches ∧ s.commit.mispred = s.mispred ∧
    s.commit.x = s.x ∧ s.commit.mem = s.mem ∧ s.commit.stat = s.stat ∧ HeadRetired s s.commit e

/-- Commit does nothing where the buffer is empty or its head is not Written with a value, whatever the state of younger
entries (R154, R195). -/
def Obligations.CommitWaitsForHead : Prop :=
  ∀ s : State,
    (s.head = s.tail ∨ ∀ e, s.entry s.head = some e → e.phase ≠ .written ∨ e.value = none) → s.commit = s

/-! ## What a step changes -/

/-- A word of memory changes in a step only where the head is a `STORE` to that address, Written and ready, and then to
the stored value (R69, R70). -/
def Obligations.MemoryChangesOnlyAtStoreCommit : Prop :=
  ∀ (s t : State) (a : Word), step s = .next t → Memory.read t.mem a ≠ Memory.read s.mem a →
    ∃ e, s.readyHead = some e ∧ e.op = .store ∧ e.dest = .memory (some a) ∧ e.value = some (Memory.read t.mem a)

/-- A register changes in a step only where the head is Written and ready with that register, not `R0`, as its
destination, and then to its value (R21, R195; that nothing else writes a register is R22, which the spec derives).
-/
def Obligations.RegisterChangesOnlyAtCommit : Prop :=
  ∀ (s t : State) (r : Reg), step s = .next t → t.x.get r ≠ s.x.get r →
    r ≠ 0 ∧ ∃ e, s.readyHead = some e ∧ e.dest = .register r ∧ e.value = some (t.x.get r)

/-- No step writes the configuration or the program (R20, R60). -/
def Obligations.ProgramNeverWritten : Prop := ∀ s t : State, step s = .next t → t.cfg = s.cfg

/-- The counters in a step of a running engine: `cycle` by one; `retired` by one where the head was ready; `branches`
where it was a `BEQ`; `mispred` where it was a taken one; `nseq` by at most one (R235). -/
def Obligations.CountersCount : Prop :=
  ∀ s t : State, s.run = true → step s = .next t →
    t.cycle = s.cycle + 1 ∧
    t.retired = s.retired + (if s.readyHead.isSome then 1 else 0) ∧
    t.branches = s.branches + (if s.readyHead.any (fun e => e.op == .beq) then 1 else 0) ∧
    t.mispred = s.mispred +
      (if s.readyHead.any (fun e => e.op == .beq && e.outcome == some true) then 1 else 0) ∧
    (t.nseq = s.nseq ∨ t.nseq = s.nseq + 1)

/-- The writes of `pc` in a step of a running engine: Commit first, the target of a taken `BEQ` or the value of a `RET`;
then Issue, where it issued: the target of a `CALL`, else the next index (R170, R184, R225). -/
def Obligations.PcWritesInOrder : Prop :=
  ∀ s t : State, s.run = true → step s = .next t →
    (∀ e, s.readyHead = some e → e.op = .beq → e.outcome = some true →
      ∃ rA rB, s.cfg.instrAt e.idx.toNat = some (.beq rA rB s.beforeIssue.pc)) ∧
    (∀ e, s.readyHead = some e → e.op = .ret → e.value = some s.beforeIssue.pc) ∧
    ((∀ e, s.readyHead = some e → e.op ≠ .ret ∧ (e.op = .beq → e.outcome ≠ some true)) →
      s.beforeIssue.pc = s.pc) ∧
    (t.nseq = s.nseq → t.pc = s.beforeIssue.pc) ∧
    (t.nseq = s.nseq + 1 → ∃ i, s.cfg.instrAt s.beforeIssue.pc.toNat = some i ∧
      (∀ target, i = .call target → t.pc = target) ∧
      ((∀ target, i ≠ .call target) → t.pc = s.beforeIssue.pc + 1))

/-- A stopped engine performs no tick: its state is stable (R261, R268). -/
def Obligations.StoppedEngineIsStable : Prop := ∀ s : State, s.run = false → step s = .next s

/-- After a tick of a running engine: it stops with `DONE_OK` when `pc` is past the program, no station is busy and the
ROB is empty; else it stops with `BUDGET_EXCEEDED` when `cycle` has reached the budget; else it runs on (R229,
R230). -/
def Obligations.RunLoopTests : Prop :=
  ∀ s t : State, s.run = true → step s = .next t →
    (t.cfg.progLen ≤ t.pc ∧ (∀ c k, t.station c k = none) ∧ t.head = t.tail →
      t.run = false ∧ t.status = .doneOk) ∧
    (¬(t.cfg.progLen ≤ t.pc ∧ (∀ c k, t.station c k = none) ∧ t.head = t.tail) →
      (t.cfg.budget ≤ t.cycle → t.run = false ∧ t.status = .budgetExceeded) ∧
      (t.cycle < t.cfg.budget → t.run = true ∧ t.status = s.status))

/-! ## Reset and start -/

/-- The state of a reset (R48, R280), for the configuration inputs as they stand. -/
def Obligations.ResetValues : Prop :=
  ∀ s : State,
    s.hardReset.cfg = s.cfg ∧ s.hardReset.x.get 0 = 0 ∧
    (∀ r, r ≠ 0 → s.hardReset.x.get r = s.cfg.regInit.get r) ∧
    s.hardReset.mem = Memory.ofImage s.cfg.memInit ∧ s.hardReset.pc = s.cfg.startPC ∧
    (∀ c k, s.hardReset.station c k = none) ∧
    (∀ c, (s.hardReset.rs.get c).length = s.cfg.rsCount.get c) ∧
    s.hardReset.rob.length = s.cfg.robSize ∧ (∀ p, s.hardReset.entry p = none) ∧
    s.hardReset.head = 0 ∧ s.hardReset.tail = 0 ∧ (∀ r, s.hardReset.stat.get r = none) ∧
    s.hardReset.cdb = none ∧ s.hardReset.cycle = 0 ∧ s.hardReset.retired = 0 ∧ s.hardReset.branches = 0 ∧
    s.hardReset.mispred = 0 ∧ s.hardReset.nseq = 0 ∧ s.hardReset.trace = [] ∧ s.hardReset.run = false ∧
    s.hardReset.status.code = 0

/-- The memory after a start: an address reads the value of the last pair of `MEM_INIT` that names it, and 0 where none
does (R62, R77). -/
def Obligations.MemoryImageLaterPairWins : Prop :=
  ∀ (image : List (Word × Word)) (a v : Word),
    Memory.read (Memory.ofImage []) a = 0 ∧
    Memory.read (Memory.ofImage (image ++ [(a, v)])) a = v ∧
    ∀ b, b ≠ a → Memory.read (Memory.ofImage (image ++ [(a, v)])) b = Memory.read (Memory.ofImage image) b

/-- The state after reset is that of R48 for the defaults of R5. That `PROG_LEN` is 0 in it and no word is in the
program is the model's choice (notes/assumptions/13.md). -/
def Obligations.ResetIsDefault : Prop := State.reset = State.initial Config.default

/-- The start checks in their order: `ROB_SIZE`, the latencies, then the words of the program by rising index, each for
legality and then for a station of its class; the first that fails gives the status (R252, R254, R259). A word below
`PROG_LEN` that the host has not supplied counts as illegal by the model's choice (log 7). -/
def Obligations.StartChecksInOrder : Prop :=
  ∀ c : Config,
    (c.robSize < 1 → startCheck c = some .configError) ∧
    ((∃ op, c.lat.get op < 1) → startCheck c = some .configError) ∧
    (1 ≤ c.robSize → (∀ op, 1 ≤ c.lat.get op) →
      ((∀ i, i < c.progLen.toNat → ∃ ins, c.instrAt i = some ins ∧ 1 ≤ c.rsCount.get ins.opcode) →
        startCheck c = none) ∧
      ∀ i, i < c.progLen.toNat →
        (∀ j, j < i → ∃ ins, c.instrAt j = some ins ∧ 1 ≤ c.rsCount.get ins.opcode) →
        (c.instrAt i = none → startCheck c = some .decodeError) ∧
        ∀ ins, c.instrAt i = some ins → c.rsCount.get ins.opcode = 0 → startCheck c = some .configError)

/-- A start request while the engine is stopped sets the state of R48 and then, by the checks, either runs or reports
the status with `run` 0; while the engine runs the host has no such move, nor one that writes the configuration
(R281, R282). -/
def Obligations.StartRequest : Prop :=
  ∀ s : State,
    (s.run = true → s.start? = none ∧ ∀ c, s.configure? c = none) ∧
    (s.run = false → (∀ c, s.configure? c = some { s with cfg := c }) ∧
      (startCheck s.cfg = none → s.start? = some { s.hardReset with run := true }) ∧
      ∀ st, startCheck s.cfg = some st → s.start? = some { s.hardReset with status := st })

/-- The empty program: the first tick does nothing, `done` holds, and the run ends with `cycle = 1`, nothing retired and
`DONE_OK`, although the default budget is already reached (R229, R230, R231; the spec derives R232 from them). -/
def Obligations.EmptyProgramEndsInOneCycle : Prop :=
  ∀ c : Config, startCheck c = none → c.progLen = 0 →
    ∃ t, step (State.started c) = .next t ∧ t.run = false ∧ t.status = .doneOk ∧ t.cycle = 1 ∧ t.retired = 0 ∧
      t.branches = 0 ∧ t = { State.started c with cycle := 1, run := false } ∧
      (c.cycleBudget = none → c.budget = 0)

/-- With `ROB_SIZE = 1` nothing ever issues: `nseq`, the registers and memory stay as they were at the start, and a run
of a program that begins inside it can end only with `BUDGET_EXCEEDED` (R151, R152, R180; the spec derives this
consequence, R153, from R151). -/
def Obligations.SizeOneBufferNeverIssues : Prop :=
  ∀ (c : Config) (t : State), c.robSize = 1 → c.startPC < c.progLen → Reached c t →
    t.nseq = 0 ∧ t.trace = [] ∧ t.arch = (State.initial c).arch ∧
      (t.run = false → t.status = .budgetExceeded)

/-! ## Invariants -/

/-- The invariant of the tick boundary holds of the state after reset (R35, R38, R39, R48). It holds clauses the model
adds to R29 to R45, which log 9 names, and that `State.reset` has the empty program is the model's choice (log 13).
-/
def Obligations.InvariantAtReset : Prop := Inv State.reset

/-- The invariant of the tick boundary holds of every started state whose checks pass (R35, R38, R39, R48, R252, R281).
It holds clauses the model adds to R29 to R45, which log 9 names; the canonical form of the memory is log 2. -/
def Obligations.InvariantAtStart : Prop := ∀ c : Config, startCheck c = none → Inv (State.started c)

/-- Every step keeps the invariant of the tick boundary: from every state that has it, whether or not a run reaches it,
a next state has it (R29 to R45, as far as they speak of one state; log 9 names the clauses the model adds). -/
def Obligations.EveryStepKeepsInvariant : Prop := ∀ s t : State, Inv s → step s = .next t → Inv t

/-- From every state that has the invariant of the tick boundary and whose program is legal a step goes on: it meets no
invariant violation, no illegal word and no refusal; so no run from a start whose checks pass ever stops, after any
number of steps there is a next state (R46, R88, R256, R281; that Issue never meets an illegal word is R89, which
the spec derives). -/
def Obligations.StartedRunNeverFaults : Prop :=
  (∀ s : State, Inv s → ProgramLegal s.cfg → Safe (step s)) ∧
  ∀ (c : Config) (k : Nat), startCheck c = none → ∃ t, steps k (State.started c) = .next t

/-- `R0` is always 0 in the architectural register file, and after every commit (R39). -/
def Obligations.RegisterZeroStaysZero : Prop :=
  ∀ (c : Config) (t : State), Reached c t → t.x.get 0 = 0 ∧ t.commit.x.get 0 = 0

/-- In every reached state an entry is Written or Committed exactly when it is ready and has its value; an Empty slot is
not ready and no busy station is associated with it (R33). -/
def Obligations.WrittenExactlyWhenReady : Prop :=
  ∀ (c : Config) (t : State), Reached c t → ∀ p,
    (∀ e, t.entry p = some e →
      ((e.phase = .written ∨ e.phase = .committed) ↔ (e.ready = true ∧ ∃ v, e.value = some v))) ∧
    (t.entry p = none → (t.entry p).any RobEntry.ready = false ∧
      ∀ cl k st, t.station cl k = some st → st.rob ≠ p)

/-- In every reached state `stat[r]` names an entry that is in flight with destination `r` and no younger in-flight
entry has that destination; it is NONE exactly when no in-flight entry writes `r`, and for `R0` (R36; the reading
"youngest" is R37's, which the spec derives from R183, R195 and R211). -/
def Obligations.StatNamesYoungestWriter : Prop :=
  ∀ (c : Config) (t : State), Reached c t →
    t.stat.get 0 = none ∧
    ∀ r, r ≠ 0 →
      (∀ p, t.stat.get r = some p →
        t.InFlight p ∧ (∃ e, t.entry p = some e ∧ e.dest = .register r) ∧
          ∀ q e, t.entry q = some e → e.dest = .register r → t.age q ≤ t.age p) ∧
      (t.stat.get r = none → ∀ q e, t.entry q = some e → e.dest ≠ .register r)

/-- In every reached state a busy station's entry is Issued or Executing, no two busy stations have the same backlink,
and every in-flight entry that is Issued or Executing has exactly one busy station (R44, which the spec derives from
R183, R191 and R211). -/
def Obligations.StationsMatchEntries : Prop :=
  ∀ (c : Config) (t : State), Reached c t →
    (∀ cl k st, t.station cl k = some st →
      ∃ e, t.entry st.rob = some e ∧ (e.phase = .issued ∨ e.phase = .executing)) ∧
    (∀ cl k st cl' k' st', t.station cl k = some st → t.station cl' k' = some st' → st.rob = st'.rob →
      cl = cl' ∧ k = k') ∧
    (∀ p e, t.entry p = some e → e.phase = .issued ∨ e.phase = .executing →
      ∃ cl k st, t.station cl k = some st ∧ st.rob = p)

/-- In every reached state a tag held by a busy station names an in-flight entry that is older than the station's own
and is Issued or Executing (R45, which the spec derives from R133, R193, R195 and R211). -/
def Obligations.TagsNameOlderUndelivered : Prop :=
  ∀ (c : Config) (t : State), Reached c t → ∀ cl k st q, t.station cl k = some st →
    (st.j = .waits q ∨ st.k = .waits q) →
    t.InFlight q ∧ t.age q < t.age st.rob ∧
      ∃ e, t.entry q = some e ∧ (e.phase = .issued ∨ e.phase = .executing)

/-! ## Runs -/

/-- The invariant of the trace holds at every start whose checks pass and is kept by every step, from every state that
has it with the invariant of the tick boundary; such a step keeps every record at its place with each stamp it
already had (R47: a record is never removed, a stamp is written at most once). So in every reached state the stamps
of a record, when all are present, satisfy `issued < execStart <= execEnd < written < committed`: R42, whose strict
inequalities the spec derives from R170, R187, R191 and R195. -/
def Obligations.StampsInOrder : Prop :=
  (∀ c : Config, startCheck c = none → TraceInv (State.started c)) ∧
  (∀ s t : State, Inv s → TraceInv s → step s = .next t → TraceInv t ∧ RecordsKept s t) ∧
  ∀ (c : Config) (t : State), Reached c t → ∀ r ∈ t.trace, ∀ a b d e f : Nat,
    r.issued = some a → r.execStart = some b → r.execEnd = some d → r.written = some e → r.committed = some f →
    a < b ∧ b ≤ d ∧ d < e ∧ e < f

/-- `execEnd - execStart + 1` is the configured latency of the opcode (R43). -/
def Obligations.LatencyIsExact : Prop :=
  ∀ (c : Config) (t : State), Reached c t → ∀ r ∈ t.trace, ∀ b d : Nat,
    r.execStart = some b → r.execEnd = some d → d - b + 1 = c.lat.get r.op ∧ b ≤ d

/-- Retirement is in program order: of two records that both have `committed`, the one issued earlier was committed in
an earlier cycle: R41, whose strictness the spec derives from the commit width of R7. -/
def Obligations.RetirementInProgramOrder : Prop :=
  ∀ (c : Config) (t : State), Reached c t → ∀ (m n : Nat) (r r' : Record) (a b : Nat),
    m < n → t.trace[m]? = some r → t.trace[n]? = some r' → r.committed = some a → r'.committed = some b → a < b

/-- The passage of one instruction through the engine with nothing else in flight, for each of the nine instructions:
from a start at it, where no other instruction can issue (the next index is past the program, or it is a `CALL` or a
`RET`) and its own effect leaves the program, it takes exactly `L + 3` cycles with the stamps of R197, and then the
registers, the memory and `pc` are those of its architectural effect (R101 to R104, R111, R112, R121 to R123; the
stamps are R197's, which the spec derives from R170, R186, R191, R193 and R195). A `BEQ`, `CALL` or `RET` whose
effect stays inside the program is not among these starts: `SequentialEquivalence` covers it. -/
def Obligations.LoneInstructionTakesItsEffect : Prop :=
  ∀ (c : Config) (i : Instr),
    startCheck c = none → 2 ≤ c.robSize → c.startPC < c.progLen → c.instrAt c.startPC.toNat = some i →
    (c.progLen ≤ c.startPC + 1 ∨ i.opcode = .call ∨ i.opcode = .ret) →
    c.progLen ≤ ((State.initial c).arch.effect i).pc →
    c.lat.get i.opcode + 3 ≤ c.budget →
    ∃ t, steps (c.lat.get i.opcode + 3) (State.started c) = .next t ∧
      t.arch = (State.initial c).arch.effect i ∧ t.run = false ∧ t.status = .doneOk ∧
      t.cycle = c.lat.get i.opcode + 3 ∧ t.retired = 1 ∧
      t.trace = [uncontendedRecord c.startPC i.opcode 1 (c.lat.get i.opcode)]

/-- What a program can observe of the microarchitecture is no value. The simulation invariant (the committed registers
and memory are those of executing the retired number of instructions one at a time in program order, the in-flight
entries are the next instructions along the predicted path, and what they delivered, computed or captured is what
that path gives) holds at every start whose checks pass and is kept by every step, from every state that has it with
the invariant of the tick boundary. So in every reached state the registers and memory are those of the sequential
execution; and when a run has ended with `DONE_OK`, `pc` too is that of the sequential execution, past the program.
The spec calls this the design intent, R290, derives it informally and leaves it to a model to prove. -/
def Obligations.SequentialEquivalence : Prop :=
  (∀ c : Config, startCheck c = none → SimInv (State.started c)) ∧
  (∀ s t : State, Inv s → SimInv s → step s = .next t → SimInv t) ∧
  ∀ (c : Config) (t : State), Reached c t →
    ∃ a, Arch.run c t.retired (State.initial c).arch = some a ∧ t.x = a.x ∧ t.mem = a.mem ∧
      (t.run = false → t.status = .doneOk → t.pc = a.pc ∧ c.progLen ≤ a.pc)
end

