-- ==== Sys2Proof/Laws/Encoding.lean ====
section
/-! SUPPORT. The fields of a word built from its fields (30_encoding.md R81). -/

namespace Sys2Proof

theorem diwOf_toNat (op : Nat) (h : op < 16) (rA rB rC : Reg) (imm target : Word) :
    (diwOf op rA rB rC imm target).toNat =
      op * 2 ^ 44 + rA.val * 2 ^ 41 + rB.val * 2 ^ 38 + rC.val * 2 ^ 35 + imm.toNat * 2 ^ 16 + target.toNat := by
  have hA := rA.isLt
  have hB := rB.isLt
  have hC := rC.isLt
  have hi := imm.isLt
  have ht := target.isLt
  rw [diwOf, BitVec.toNat_ofNat]
  omega

section fields
variable (op : Nat) (h : op < 16) (rA rB rC : Reg) (imm target : Word)
include h

theorem diwOpcode_diwOf : diwOpcode (diwOf op rA rB rC imm target) = op := by
  have hA := rA.isLt
  have hB := rB.isLt
  have hC := rC.isLt
  have hi := imm.isLt
  have ht := target.isLt
  rw [diwOpcode, diwBits, diwOf_toNat op h]
  omega

theorem diwRsv_diwOf : diwRsv (diwOf op rA rB rC imm target) = 0 := by
  have hi := imm.isLt
  have ht := target.isLt
  rw [diwRsv, diwBits, diwOf_toNat op h]
  omega

theorem diwRA_diwOf : diwRA (diwOf op rA rB rC imm target) = rA := by
  have hA := rA.isLt
  have hB := rB.isLt
  have hC := rC.isLt
  have hi := imm.isLt
  have ht := target.isLt
  apply Fin.ext
  simp only [diwRA, diwBits, diwOf_toNat op h]
  omega

theorem diwRB_diwOf : diwRB (diwOf op rA rB rC imm target) = rB := by
  have hB := rB.isLt
  have hC := rC.isLt
  have hi := imm.isLt
  have ht := target.isLt
  apply Fin.ext
  simp only [diwRB, diwBits, diwOf_toNat op h]
  omega

theorem diwRC_diwOf : diwRC (diwOf op rA rB rC imm target) = rC := by
  have hC := rC.isLt
  have hi := imm.isLt
  have ht := target.isLt
  apply Fin.ext
  simp only [diwRC, diwBits, diwOf_toNat op h]
  omega

theorem diwImm_diwOf : diwImm (diwOf op rA rB rC imm target) = imm := by
  have hi := imm.isLt
  have ht := target.isLt
  apply BitVec.eq_of_toNat_eq
  rw [diwImm, BitVec.toNat_ofNat, diwBits, diwOf_toNat op h]
  omega

theorem diwTarget_diwOf : diwTarget (diwOf op rA rB rC imm target) = target := by
  have ht := target.isLt
  apply BitVec.eq_of_toNat_eq
  rw [diwTarget, BitVec.toNat_ofNat, diwBits, diwOf_toNat op h]
  omega

end fields

end Sys2Proof
end

