-- ==== Sys2Proof/Laws/State.lean ====
section
/-! SUPPORT. One lemma per field per update: what each named operation does to each field of the state. -/

namespace Sys2Proof.Machine


/-! ### setStat -/

@[simp] theorem State.setStat_cfg (s : State) (r : Reg) (t : Tag) : (s.setStat r t).cfg = s.cfg := rfl
@[simp] theorem State.setStat_x (s : State) (r : Reg) (t : Tag) : (s.setStat r t).x = s.x := rfl
@[simp] theorem State.setStat_mem (s : State) (r : Reg) (t : Tag) : (s.setStat r t).mem = s.mem := rfl
@[simp] theorem State.setStat_pc (s : State) (r : Reg) (t : Tag) : (s.setStat r t).pc = s.pc := rfl
@[simp] theorem State.setStat_rs (s : State) (r : Reg) (t : Tag) : (s.setStat r t).rs = s.rs := rfl
@[simp] theorem State.setStat_rob (s : State) (r : Reg) (t : Tag) : (s.setStat r t).rob = s.rob := rfl
@[simp] theorem State.setStat_head (s : State) (r : Reg) (t : Tag) : (s.setStat r t).head = s.head := rfl
@[simp] theorem State.setStat_tail (s : State) (r : Reg) (t : Tag) : (s.setStat r t).tail = s.tail := rfl
@[simp] theorem State.setStat_stat (s : State) (r : Reg) (t : Tag) : (s.setStat r t).stat = s.stat.set r t := rfl
@[simp] theorem State.setStat_cdb (s : State) (r : Reg) (t : Tag) : (s.setStat r t).cdb = s.cdb := rfl
@[simp] theorem State.setStat_cycle (s : State) (r : Reg) (t : Tag) : (s.setStat r t).cycle = s.cycle := rfl
@[simp] theorem State.setStat_retired (s : State) (r : Reg) (t : Tag) : (s.setStat r t).retired = s.retired := rfl
@[simp] theorem State.setStat_branches (s : State) (r : Reg) (t : Tag) : (s.setStat r t).branches = s.branches := rfl
@[simp] theorem State.setStat_mispred (s : State) (r : Reg) (t : Tag) : (s.setStat r t).mispred = s.mispred := rfl
@[simp] theorem State.setStat_nseq (s : State) (r : Reg) (t : Tag) : (s.setStat r t).nseq = s.nseq := rfl
@[simp] theorem State.setStat_status (s : State) (r : Reg) (t : Tag) : (s.setStat r t).status = s.status := rfl
@[simp] theorem State.setStat_run (s : State) (r : Reg) (t : Tag) : (s.setStat r t).run = s.run := rfl
@[simp] theorem State.setStat_trace (s : State) (r : Reg) (t : Tag) : (s.setStat r t).trace = s.trace := rfl

/-! ### setPc -/

@[simp] theorem State.setPc_cfg (s : State) (t : Word) : (s.setPc t).cfg = s.cfg := rfl
@[simp] theorem State.setPc_x (s : State) (t : Word) : (s.setPc t).x = s.x := rfl
@[simp] theorem State.setPc_mem (s : State) (t : Word) : (s.setPc t).mem = s.mem := rfl
@[simp] theorem State.setPc_pc (s : State) (t : Word) : (s.setPc t).pc = t := rfl
@[simp] theorem State.setPc_rs (s : State) (t : Word) : (s.setPc t).rs = s.rs := rfl
@[simp] theorem State.setPc_rob (s : State) (t : Word) : (s.setPc t).rob = s.rob := rfl
@[simp] theorem State.setPc_head (s : State) (t : Word) : (s.setPc t).head = s.head := rfl
@[simp] theorem State.setPc_tail (s : State) (t : Word) : (s.setPc t).tail = s.tail := rfl
@[simp] theorem State.setPc_stat (s : State) (t : Word) : (s.setPc t).stat = s.stat := rfl
@[simp] theorem State.setPc_cdb (s : State) (t : Word) : (s.setPc t).cdb = s.cdb := rfl
@[simp] theorem State.setPc_cycle (s : State) (t : Word) : (s.setPc t).cycle = s.cycle := rfl
@[simp] theorem State.setPc_retired (s : State) (t : Word) : (s.setPc t).retired = s.retired := rfl
@[simp] theorem State.setPc_branches (s : State) (t : Word) : (s.setPc t).branches = s.branches := rfl
@[simp] theorem State.setPc_mispred (s : State) (t : Word) : (s.setPc t).mispred = s.mispred := rfl
@[simp] theorem State.setPc_nseq (s : State) (t : Word) : (s.setPc t).nseq = s.nseq := rfl
@[simp] theorem State.setPc_status (s : State) (t : Word) : (s.setPc t).status = s.status := rfl
@[simp] theorem State.setPc_run (s : State) (t : Word) : (s.setPc t).run = s.run := rfl
@[simp] theorem State.setPc_trace (s : State) (t : Word) : (s.setPc t).trace = s.trace := rfl

/-! ### writeMem -/

@[simp] theorem State.writeMem_cfg (s : State) (a v : Word) : (s.writeMem a v).cfg = s.cfg := rfl
@[simp] theorem State.writeMem_x (s : State) (a v : Word) : (s.writeMem a v).x = s.x := rfl
@[simp] theorem State.writeMem_mem (s : State) (a v : Word) : (s.writeMem a v).mem = Memory.write s.mem a v := rfl
@[simp] theorem State.writeMem_pc (s : State) (a v : Word) : (s.writeMem a v).pc = s.pc := rfl
@[simp] theorem State.writeMem_rs (s : State) (a v : Word) : (s.writeMem a v).rs = s.rs := rfl
@[simp] theorem State.writeMem_rob (s : State) (a v : Word) : (s.writeMem a v).rob = s.rob := rfl
@[simp] theorem State.writeMem_head (s : State) (a v : Word) : (s.writeMem a v).head = s.head := rfl
@[simp] theorem State.writeMem_tail (s : State) (a v : Word) : (s.writeMem a v).tail = s.tail := rfl
@[simp] theorem State.writeMem_stat (s : State) (a v : Word) : (s.writeMem a v).stat = s.stat := rfl
@[simp] theorem State.writeMem_cdb (s : State) (a v : Word) : (s.writeMem a v).cdb = s.cdb := rfl
@[simp] theorem State.writeMem_cycle (s : State) (a v : Word) : (s.writeMem a v).cycle = s.cycle := rfl
@[simp] theorem State.writeMem_retired (s : State) (a v : Word) : (s.writeMem a v).retired = s.retired := rfl
@[simp] theorem State.writeMem_branches (s : State) (a v : Word) : (s.writeMem a v).branches = s.branches := rfl
@[simp] theorem State.writeMem_mispred (s : State) (a v : Word) : (s.writeMem a v).mispred = s.mispred := rfl
@[simp] theorem State.writeMem_nseq (s : State) (a v : Word) : (s.writeMem a v).nseq = s.nseq := rfl
@[simp] theorem State.writeMem_status (s : State) (a v : Word) : (s.writeMem a v).status = s.status := rfl
@[simp] theorem State.writeMem_run (s : State) (a v : Word) : (s.writeMem a v).run = s.run := rfl
@[simp] theorem State.writeMem_trace (s : State) (a v : Word) : (s.writeMem a v).trace = s.trace := rfl

/-! ### stamp -/

@[simp] theorem State.stamp_cfg (s : State) (seq : Nat) (f : Stamp) : (s.stamp seq f).cfg = s.cfg := rfl
@[simp] theorem State.stamp_x (s : State) (seq : Nat) (f : Stamp) : (s.stamp seq f).x = s.x := rfl
@[simp] theorem State.stamp_mem (s : State) (seq : Nat) (f : Stamp) : (s.stamp seq f).mem = s.mem := rfl
@[simp] theorem State.stamp_pc (s : State) (seq : Nat) (f : Stamp) : (s.stamp seq f).pc = s.pc := rfl
@[simp] theorem State.stamp_rs (s : State) (seq : Nat) (f : Stamp) : (s.stamp seq f).rs = s.rs := rfl
@[simp] theorem State.stamp_rob (s : State) (seq : Nat) (f : Stamp) : (s.stamp seq f).rob = s.rob := rfl
@[simp] theorem State.stamp_head (s : State) (seq : Nat) (f : Stamp) : (s.stamp seq f).head = s.head := rfl
@[simp] theorem State.stamp_tail (s : State) (seq : Nat) (f : Stamp) : (s.stamp seq f).tail = s.tail := rfl
@[simp] theorem State.stamp_stat (s : State) (seq : Nat) (f : Stamp) : (s.stamp seq f).stat = s.stat := rfl
@[simp] theorem State.stamp_cdb (s : State) (seq : Nat) (f : Stamp) : (s.stamp seq f).cdb = s.cdb := rfl
@[simp] theorem State.stamp_cycle (s : State) (seq : Nat) (f : Stamp) : (s.stamp seq f).cycle = s.cycle := rfl
@[simp] theorem State.stamp_retired (s : State) (seq : Nat) (f : Stamp) : (s.stamp seq f).retired = s.retired := rfl
@[simp] theorem State.stamp_branches (s : State) (seq : Nat) (f : Stamp) :
    (s.stamp seq f).branches = s.branches := rfl
@[simp] theorem State.stamp_mispred (s : State) (seq : Nat) (f : Stamp) : (s.stamp seq f).mispred = s.mispred := rfl
@[simp] theorem State.stamp_nseq (s : State) (seq : Nat) (f : Stamp) : (s.stamp seq f).nseq = s.nseq := rfl
@[simp] theorem State.stamp_status (s : State) (seq : Nat) (f : Stamp) : (s.stamp seq f).status = s.status := rfl
@[simp] theorem State.stamp_run (s : State) (seq : Nat) (f : Stamp) : (s.stamp seq f).run = s.run := rfl
@[simp] theorem State.stamp_trace (s : State) (seq : Nat) (f : Stamp) :
    (s.stamp seq f).trace = s.trace.modify seq fun r => Record.set r f s.cycle := rfl

/-! ### setEntry -/

@[simp] theorem State.setEntry_cfg (s : State) (p : Nat) (e : Option RobEntry) : (s.setEntry p e).cfg = s.cfg := rfl
@[simp] theorem State.setEntry_x (s : State) (p : Nat) (e : Option RobEntry) : (s.setEntry p e).x = s.x := rfl
@[simp] theorem State.setEntry_mem (s : State) (p : Nat) (e : Option RobEntry) : (s.setEntry p e).mem = s.mem := rfl
@[simp] theorem State.setEntry_pc (s : State) (p : Nat) (e : Option RobEntry) : (s.setEntry p e).pc = s.pc := rfl
@[simp] theorem State.setEntry_rs (s : State) (p : Nat) (e : Option RobEntry) : (s.setEntry p e).rs = s.rs := rfl
@[simp] theorem State.setEntry_rob (s : State) (p : Nat) (e : Option RobEntry) :
    (s.setEntry p e).rob = s.rob.set p e := rfl
@[simp] theorem State.setEntry_head (s : State) (p : Nat) (e : Option RobEntry) :
    (s.setEntry p e).head = s.head := rfl
@[simp] theorem State.setEntry_tail (s : State) (p : Nat) (e : Option RobEntry) :
    (s.setEntry p e).tail = s.tail := rfl
@[simp] theorem State.setEntry_stat (s : State) (p : Nat) (e : Option RobEntry) :
    (s.setEntry p e).stat = s.stat := rfl
@[simp] theorem State.setEntry_cdb (s : State) (p : Nat) (e : Option RobEntry) : (s.setEntry p e).cdb = s.cdb := rfl
@[simp] theorem State.setEntry_cycle (s : State) (p : Nat) (e : Option RobEntry) :
    (s.setEntry p e).cycle = s.cycle := rfl
@[simp] theorem State.setEntry_retired (s : State) (p : Nat) (e : Option RobEntry) :
    (s.setEntry p e).retired = s.retired := rfl
@[simp] theorem State.setEntry_branches (s : State) (p : Nat) (e : Option RobEntry) :
    (s.setEntry p e).branches = s.branches := rfl
@[simp] theorem State.setEntry_mispred (s : State) (p : Nat) (e : Option RobEntry) :
    (s.setEntry p e).mispred = s.mispred := rfl
@[simp] theorem State.setEntry_nseq (s : State) (p : Nat) (e : Option RobEntry) :
    (s.setEntry p e).nseq = s.nseq := rfl
@[simp] theorem State.setEntry_status (s : State) (p : Nat) (e : Option RobEntry) :
    (s.setEntry p e).status = s.status := rfl
@[simp] theorem State.setEntry_run (s : State) (p : Nat) (e : Option RobEntry) : (s.setEntry p e).run = s.run := rfl
@[simp] theorem State.setEntry_trace (s : State) (p : Nat) (e : Option RobEntry) :
    (s.setEntry p e).trace = s.trace := rfl

/-! ### modifyEntry -/

@[simp] theorem State.modifyEntry_cfg (s : State) (p : Nat) (f : RobEntry → RobEntry) :
    (s.modifyEntry p f).cfg = s.cfg := rfl
@[simp] theorem State.modifyEntry_x (s : State) (p : Nat) (f : RobEntry → RobEntry) :
    (s.modifyEntry p f).x = s.x := rfl
@[simp] theorem State.modifyEntry_mem (s : State) (p : Nat) (f : RobEntry → RobEntry) :
    (s.modifyEntry p f).mem = s.mem := rfl
@[simp] theorem State.modifyEntry_pc (s : State) (p : Nat) (f : RobEntry → RobEntry) :
    (s.modifyEntry p f).pc = s.pc := rfl
@[simp] theorem State.modifyEntry_rs (s : State) (p : Nat) (f : RobEntry → RobEntry) :
    (s.modifyEntry p f).rs = s.rs := rfl
@[simp] theorem State.modifyEntry_rob (s : State) (p : Nat) (f : RobEntry → RobEntry) :
    (s.modifyEntry p f).rob = s.rob.modify p (Option.map f) := rfl
@[simp] theorem State.modifyEntry_head (s : State) (p : Nat) (f : RobEntry → RobEntry) :
    (s.modifyEntry p f).head = s.head := rfl
@[simp] theorem State.modifyEntry_tail (s : State) (p : Nat) (f : RobEntry → RobEntry) :
    (s.modifyEntry p f).tail = s.tail := rfl
@[simp] theorem State.modifyEntry_stat (s : State) (p : Nat) (f : RobEntry → RobEntry) :
    (s.modifyEntry p f).stat = s.stat := rfl
@[simp] theorem State.modifyEntry_cdb (s : State) (p : Nat) (f : RobEntry → RobEntry) :
    (s.modifyEntry p f).cdb = s.cdb := rfl
@[simp] theorem State.modifyEntry_cycle (s : State) (p : Nat) (f : RobEntry → RobEntry) :
    (s.modifyEntry p f).cycle = s.cycle := rfl
@[simp] theorem State.modifyEntry_retired (s : State) (p : Nat) (f : RobEntry → RobEntry) :
    (s.modifyEntry p f).retired = s.retired := rfl
@[simp] theorem State.modifyEntry_branches (s : State) (p : Nat) (f : RobEntry → RobEntry) :
    (s.modifyEntry p f).branches = s.branches := rfl
@[simp] theorem State.modifyEntry_mispred (s : State) (p : Nat) (f : RobEntry → RobEntry) :
    (s.modifyEntry p f).mispred = s.mispred := rfl
@[simp] theorem State.modifyEntry_nseq (s : State) (p : Nat) (f : RobEntry → RobEntry) :
    (s.modifyEntry p f).nseq = s.nseq := rfl
@[simp] theorem State.modifyEntry_status (s : State) (p : Nat) (f : RobEntry → RobEntry) :
    (s.modifyEntry p f).status = s.status := rfl
@[simp] theorem State.modifyEntry_run (s : State) (p : Nat) (f : RobEntry → RobEntry) :
    (s.modifyEntry p f).run = s.run := rfl
@[simp] theorem State.modifyEntry_trace (s : State) (p : Nat) (f : RobEntry → RobEntry) :
    (s.modifyEntry p f).trace = s.trace := rfl

/-! ### setStation -/

@[simp] theorem State.setStation_cfg (s : State) (c : Opcode) (k : Nat) (st : Option Station) :
    (s.setStation c k st).cfg = s.cfg := rfl
@[simp] theorem State.setStation_x (s : State) (c : Opcode) (k : Nat) (st : Option Station) :
    (s.setStation c k st).x = s.x := rfl
@[simp] theorem State.setStation_mem (s : State) (c : Opcode) (k : Nat) (st : Option Station) :
    (s.setStation c k st).mem = s.mem := rfl
@[simp] theorem State.setStation_pc (s : State) (c : Opcode) (k : Nat) (st : Option Station) :
    (s.setStation c k st).pc = s.pc := rfl
@[simp] theorem State.setStation_rs (s : State) (c : Opcode) (k : Nat) (st : Option Station) :
    (s.setStation c k st).rs = s.rs.set c ((s.rs.get c).set k st) := rfl
@[simp] theorem State.setStation_rob (s : State) (c : Opcode) (k : Nat) (st : Option Station) :
    (s.setStation c k st).rob = s.rob := rfl
@[simp] theorem State.setStation_head (s : State) (c : Opcode) (k : Nat) (st : Option Station) :
    (s.setStation c k st).head = s.head := rfl
@[simp] theorem State.setStation_tail (s : State) (c : Opcode) (k : Nat) (st : Option Station) :
    (s.setStation c k st).tail = s.tail := rfl
@[simp] theorem State.setStation_stat (s : State) (c : Opcode) (k : Nat) (st : Option Station) :
    (s.setStation c k st).stat = s.stat := rfl
@[simp] theorem State.setStation_cdb (s : State) (c : Opcode) (k : Nat) (st : Option Station) :
    (s.setStation c k st).cdb = s.cdb := rfl
@[simp] theorem State.setStation_cycle (s : State) (c : Opcode) (k : Nat) (st : Option Station) :
    (s.setStation c k st).cycle = s.cycle := rfl
@[simp] theorem State.setStation_retired (s : State) (c : Opcode) (k : Nat) (st : Option Station) :
    (s.setStation c k st).retired = s.retired := rfl
@[simp] theorem State.setStation_branches (s : State) (c : Opcode) (k : Nat) (st : Option Station) :
    (s.setStation c k st).branches = s.branches := rfl
@[simp] theorem State.setStation_mispred (s : State) (c : Opcode) (k : Nat) (st : Option Station) :
    (s.setStation c k st).mispred = s.mispred := rfl
@[simp] theorem State.setStation_nseq (s : State) (c : Opcode) (k : Nat) (st : Option Station) :
    (s.setStation c k st).nseq = s.nseq := rfl
@[simp] theorem State.setStation_status (s : State) (c : Opcode) (k : Nat) (st : Option Station) :
    (s.setStation c k st).status = s.status := rfl
@[simp] theorem State.setStation_run (s : State) (c : Opcode) (k : Nat) (st : Option Station) :
    (s.setStation c k st).run = s.run := rfl
@[simp] theorem State.setStation_trace (s : State) (c : Opcode) (k : Nat) (st : Option Station) :
    (s.setStation c k st).trace = s.trace := rfl

/-! ### release -/

@[simp] theorem State.release_cfg (s : State) (c : Opcode) (k : Nat) : (s.release c k).cfg = s.cfg := rfl
@[simp] theorem State.release_x (s : State) (c : Opcode) (k : Nat) : (s.release c k).x = s.x := rfl
@[simp] theorem State.release_mem (s : State) (c : Opcode) (k : Nat) : (s.release c k).mem = s.mem := rfl
@[simp] theorem State.release_pc (s : State) (c : Opcode) (k : Nat) : (s.release c k).pc = s.pc := rfl
@[simp] theorem State.release_rs (s : State) (c : Opcode) (k : Nat) :
    (s.release c k).rs = s.rs.set c ((s.rs.get c).set k none) := rfl
@[simp] theorem State.release_rob (s : State) (c : Opcode) (k : Nat) : (s.release c k).rob = s.rob := rfl
@[simp] theorem State.release_head (s : State) (c : Opcode) (k : Nat) : (s.release c k).head = s.head := rfl
@[simp] theorem State.release_tail (s : State) (c : Opcode) (k : Nat) : (s.release c k).tail = s.tail := rfl
@[simp] theorem State.release_stat (s : State) (c : Opcode) (k : Nat) : (s.release c k).stat = s.stat := rfl
@[simp] theorem State.release_cdb (s : State) (c : Opcode) (k : Nat) : (s.release c k).cdb = s.cdb := rfl
@[simp] theorem State.release_cycle (s : State) (c : Opcode) (k : Nat) : (s.release c k).cycle = s.cycle := rfl
@[simp] theorem State.release_retired (s : State) (c : Opcode) (k : Nat) : (s.release c k).retired = s.retired := rfl
@[simp] theorem State.release_branches (s : State) (c : Opcode) (k : Nat) :
    (s.release c k).branches = s.branches := rfl
@[simp] theorem State.release_mispred (s : State) (c : Opcode) (k : Nat) : (s.release c k).mispred = s.mispred := rfl
@[simp] theorem State.release_nseq (s : State) (c : Opcode) (k : Nat) : (s.release c k).nseq = s.nseq := rfl
@[simp] theorem State.release_status (s : State) (c : Opcode) (k : Nat) : (s.release c k).status = s.status := rfl
@[simp] theorem State.release_run (s : State) (c : Opcode) (k : Nat) : (s.release c k).run = s.run := rfl
@[simp] theorem State.release_trace (s : State) (c : Opcode) (k : Nat) : (s.release c k).trace = s.trace := rfl

/-! ### mapStations -/

@[simp] theorem State.mapStations_cfg (s : State) (f : Option Station → Option Station) :
    (s.mapStations f).cfg = s.cfg := rfl
@[simp] theorem State.mapStations_x (s : State) (f : Option Station → Option Station) :
    (s.mapStations f).x = s.x := rfl
@[simp] theorem State.mapStations_mem (s : State) (f : Option Station → Option Station) :
    (s.mapStations f).mem = s.mem := rfl
@[simp] theorem State.mapStations_pc (s : State) (f : Option Station → Option Station) :
    (s.mapStations f).pc = s.pc := rfl
@[simp] theorem State.mapStations_rs (s : State) (f : Option Station → Option Station) :
    (s.mapStations f).rs = s.rs.map (List.map f) := rfl
@[simp] theorem State.mapStations_rob (s : State) (f : Option Station → Option Station) :
    (s.mapStations f).rob = s.rob := rfl
@[simp] theorem State.mapStations_head (s : State) (f : Option Station → Option Station) :
    (s.mapStations f).head = s.head := rfl
@[simp] theorem State.mapStations_tail (s : State) (f : Option Station → Option Station) :
    (s.mapStations f).tail = s.tail := rfl
@[simp] theorem State.mapStations_stat (s : State) (f : Option Station → Option Station) :
    (s.mapStations f).stat = s.stat := rfl
@[simp] theorem State.mapStations_cdb (s : State) (f : Option Station → Option Station) :
    (s.mapStations f).cdb = s.cdb := rfl
@[simp] theorem State.mapStations_cycle (s : State) (f : Option Station → Option Station) :
    (s.mapStations f).cycle = s.cycle := rfl
@[simp] theorem State.mapStations_retired (s : State) (f : Option Station → Option Station) :
    (s.mapStations f).retired = s.retired := rfl
@[simp] theorem State.mapStations_branches (s : State) (f : Option Station → Option Station) :
    (s.mapStations f).branches = s.branches := rfl
@[simp] theorem State.mapStations_mispred (s : State) (f : Option Station → Option Station) :
    (s.mapStations f).mispred = s.mispred := rfl
@[simp] theorem State.mapStations_nseq (s : State) (f : Option Station → Option Station) :
    (s.mapStations f).nseq = s.nseq := rfl
@[simp] theorem State.mapStations_status (s : State) (f : Option Station → Option Station) :
    (s.mapStations f).status = s.status := rfl
@[simp] theorem State.mapStations_run (s : State) (f : Option Station → Option Station) :
    (s.mapStations f).run = s.run := rfl
@[simp] theorem State.mapStations_trace (s : State) (f : Option Station → Option Station) :
    (s.mapStations f).trace = s.trace := rfl

/-! ### popHead -/

@[simp] theorem State.popHead_cfg (s : State) : (s.popHead).cfg = s.cfg := rfl
@[simp] theorem State.popHead_x (s : State) : (s.popHead).x = s.x := rfl
@[simp] theorem State.popHead_mem (s : State) : (s.popHead).mem = s.mem := rfl
@[simp] theorem State.popHead_pc (s : State) : (s.popHead).pc = s.pc := rfl
@[simp] theorem State.popHead_rs (s : State) : (s.popHead).rs = s.rs := rfl
@[simp] theorem State.popHead_rob (s : State) : (s.popHead).rob = s.rob.set s.head none := rfl
@[simp] theorem State.popHead_head (s : State) : (s.popHead).head = (s.head + 1) % s.n := rfl
@[simp] theorem State.popHead_tail (s : State) : (s.popHead).tail = s.tail := rfl
@[simp] theorem State.popHead_stat (s : State) : (s.popHead).stat = s.stat := rfl
@[simp] theorem State.popHead_cdb (s : State) : (s.popHead).cdb = s.cdb := rfl
@[simp] theorem State.popHead_cycle (s : State) : (s.popHead).cycle = s.cycle := rfl
@[simp] theorem State.popHead_retired (s : State) : (s.popHead).retired = s.retired := rfl
@[simp] theorem State.popHead_branches (s : State) : (s.popHead).branches = s.branches := rfl
@[simp] theorem State.popHead_mispred (s : State) : (s.popHead).mispred = s.mispred := rfl
@[simp] theorem State.popHead_nseq (s : State) : (s.popHead).nseq = s.nseq := rfl
@[simp] theorem State.popHead_status (s : State) : (s.popHead).status = s.status := rfl
@[simp] theorem State.popHead_run (s : State) : (s.popHead).run = s.run := rfl
@[simp] theorem State.popHead_trace (s : State) : (s.popHead).trace = s.trace := rfl

/-! ### stop -/

@[simp] theorem State.stop_cfg (s : State) (st : Status) : (s.stop st).cfg = s.cfg := rfl
@[simp] theorem State.stop_x (s : State) (st : Status) : (s.stop st).x = s.x := rfl
@[simp] theorem State.stop_mem (s : State) (st : Status) : (s.stop st).mem = s.mem := rfl
@[simp] theorem State.stop_pc (s : State) (st : Status) : (s.stop st).pc = s.pc := rfl
@[simp] theorem State.stop_rs (s : State) (st : Status) : (s.stop st).rs = s.rs := rfl
@[simp] theorem State.stop_rob (s : State) (st : Status) : (s.stop st).rob = s.rob := rfl
@[simp] theorem State.stop_head (s : State) (st : Status) : (s.stop st).head = s.head := rfl
@[simp] theorem State.stop_tail (s : State) (st : Status) : (s.stop st).tail = s.tail := rfl
@[simp] theorem State.stop_stat (s : State) (st : Status) : (s.stop st).stat = s.stat := rfl
@[simp] theorem State.stop_cdb (s : State) (st : Status) : (s.stop st).cdb = s.cdb := rfl
@[simp] theorem State.stop_cycle (s : State) (st : Status) : (s.stop st).cycle = s.cycle := rfl
@[simp] theorem State.stop_retired (s : State) (st : Status) : (s.stop st).retired = s.retired := rfl
@[simp] theorem State.stop_branches (s : State) (st : Status) : (s.stop st).branches = s.branches := rfl
@[simp] theorem State.stop_mispred (s : State) (st : Status) : (s.stop st).mispred = s.mispred := rfl
@[simp] theorem State.stop_nseq (s : State) (st : Status) : (s.stop st).nseq = s.nseq := rfl
@[simp] theorem State.stop_status (s : State) (st : Status) : (s.stop st).status = st := rfl
@[simp] theorem State.stop_run (s : State) (st : Status) : (s.stop st).run = false := rfl
@[simp] theorem State.stop_trace (s : State) (st : Status) : (s.stop st).trace = s.trace := rfl

/-! ### recomputeSpec -/

@[simp] theorem State.recomputeSpec_cfg (s : State) : (s.recomputeSpec).cfg = s.cfg := rfl
@[simp] theorem State.recomputeSpec_x (s : State) : (s.recomputeSpec).x = s.x := rfl
@[simp] theorem State.recomputeSpec_mem (s : State) : (s.recomputeSpec).mem = s.mem := rfl
@[simp] theorem State.recomputeSpec_pc (s : State) : (s.recomputeSpec).pc = s.pc := rfl
@[simp] theorem State.recomputeSpec_rs (s : State) : (s.recomputeSpec).rs = s.rs := rfl
@[simp] theorem State.recomputeSpec_rob (s : State) :
    (s.recomputeSpec).rob = s.rob.mapIdx fun p slot => slot.map fun e => { e with spec := s.specBit e.op (s.olderThan p) } := rfl
@[simp] theorem State.recomputeSpec_head (s : State) : (s.recomputeSpec).head = s.head := rfl
@[simp] theorem State.recomputeSpec_tail (s : State) : (s.recomputeSpec).tail = s.tail := rfl
@[simp] theorem State.recomputeSpec_stat (s : State) : (s.recomputeSpec).stat = s.stat := rfl
@[simp] theorem State.recomputeSpec_cdb (s : State) : (s.recomputeSpec).cdb = s.cdb := rfl
@[simp] theorem State.recomputeSpec_cycle (s : State) : (s.recomputeSpec).cycle = s.cycle := rfl
@[simp] theorem State.recomputeSpec_retired (s : State) : (s.recomputeSpec).retired = s.retired := rfl
@[simp] theorem State.recomputeSpec_branches (s : State) : (s.recomputeSpec).branches = s.branches := rfl
@[simp] theorem State.recomputeSpec_mispred (s : State) : (s.recomputeSpec).mispred = s.mispred := rfl
@[simp] theorem State.recomputeSpec_nseq (s : State) : (s.recomputeSpec).nseq = s.nseq := rfl
@[simp] theorem State.recomputeSpec_status (s : State) : (s.recomputeSpec).status = s.status := rfl
@[simp] theorem State.recomputeSpec_run (s : State) : (s.recomputeSpec).run = s.run := rfl
@[simp] theorem State.recomputeSpec_trace (s : State) : (s.recomputeSpec).trace = s.trace := rfl

/-! ### allocate -/

@[simp] theorem State.allocate_cfg (s : State) (q : IssueRequest) (k : Nat) : (s.allocate q k).cfg = s.cfg := rfl
@[simp] theorem State.allocate_x (s : State) (q : IssueRequest) (k : Nat) : (s.allocate q k).x = s.x := rfl
@[simp] theorem State.allocate_mem (s : State) (q : IssueRequest) (k : Nat) : (s.allocate q k).mem = s.mem := rfl
@[simp] theorem State.allocate_pc (s : State) (q : IssueRequest) (k : Nat) : (s.allocate q k).pc = q.nextPC := rfl
@[simp] theorem State.allocate_rs (s : State) (q : IssueRequest) (k : Nat) :
    (s.allocate q k).rs = s.rs.set q.op ((s.rs.get q.op).set k (some (s.newStation q))) := rfl
@[simp] theorem State.allocate_rob (s : State) (q : IssueRequest) (k : Nat) :
    (s.allocate q k).rob = s.rob.set s.tail (some (s.newEntry q)) := rfl
@[simp] theorem State.allocate_head (s : State) (q : IssueRequest) (k : Nat) : (s.allocate q k).head = s.head := rfl
@[simp] theorem State.allocate_tail (s : State) (q : IssueRequest) (k : Nat) :
    (s.allocate q k).tail = (s.tail + 1) % s.n := rfl
@[simp] theorem State.allocate_stat (s : State) (q : IssueRequest) (k : Nat) :
    (s.allocate q k).stat = s.renamed q.dest := rfl
@[simp] theorem State.allocate_cdb (s : State) (q : IssueRequest) (k : Nat) : (s.allocate q k).cdb = s.cdb := rfl
@[simp] theorem State.allocate_cycle (s : State) (q : IssueRequest) (k : Nat) :
    (s.allocate q k).cycle = s.cycle := rfl
@[simp] theorem State.allocate_retired (s : State) (q : IssueRequest) (k : Nat) :
    (s.allocate q k).retired = s.retired := rfl
@[simp] theorem State.allocate_branches (s : State) (q : IssueRequest) (k : Nat) :
    (s.allocate q k).branches = s.branches := rfl
@[simp] theorem State.allocate_mispred (s : State) (q : IssueRequest) (k : Nat) :
    (s.allocate q k).mispred = s.mispred := rfl
@[simp] theorem State.allocate_nseq (s : State) (q : IssueRequest) (k : Nat) :
    (s.allocate q k).nseq = s.nseq + 1 := rfl
@[simp] theorem State.allocate_status (s : State) (q : IssueRequest) (k : Nat) :
    (s.allocate q k).status = s.status := rfl
@[simp] theorem State.allocate_run (s : State) (q : IssueRequest) (k : Nat) : (s.allocate q k).run = s.run := rfl
@[simp] theorem State.allocate_trace (s : State) (q : IssueRequest) (k : Nat) :
    (s.allocate q k).trace = s.trace ++ [s.newRecord q] := rfl

/-! ### writeReg -/

@[simp] theorem State.writeReg_cfg (s : State) (r : Reg) (v : Word) :
    (s.writeReg r v).cfg = s.cfg := by
  unfold State.writeReg
  split <;> rfl
@[simp] theorem State.writeReg_mem (s : State) (r : Reg) (v : Word) :
    (s.writeReg r v).mem = s.mem := by
  unfold State.writeReg
  split <;> rfl
@[simp] theorem State.writeReg_pc (s : State) (r : Reg) (v : Word) :
    (s.writeReg r v).pc = s.pc := by
  unfold State.writeReg
  split <;> rfl
@[simp] theorem State.writeReg_rs (s : State) (r : Reg) (v : Word) :
    (s.writeReg r v).rs = s.rs := by
  unfold State.writeReg
  split <;> rfl
@[simp] theorem State.writeReg_rob (s : State) (r : Reg) (v : Word) :
    (s.writeReg r v).rob = s.rob := by
  unfold State.writeReg
  split <;> rfl
@[simp] theorem State.writeReg_head (s : State) (r : Reg) (v : Word) :
    (s.writeReg r v).head = s.head := by
  unfold State.writeReg
  split <;> rfl
@[simp] theorem State.writeReg_tail (s : State) (r : Reg) (v : Word) :
    (s.writeReg r v).tail = s.tail := by
  unfold State.writeReg
  split <;> rfl
@[simp] theorem State.writeReg_stat (s : State) (r : Reg) (v : Word) :
    (s.writeReg r v).stat = s.stat := by
  unfold State.writeReg
  split <;> rfl
@[simp] theorem State.writeReg_cdb (s : State) (r : Reg) (v : Word) :
    (s.writeReg r v).cdb = s.cdb := by
  unfold State.writeReg
  split <;> rfl
@[simp] theorem State.writeReg_cycle (s : State) (r : Reg) (v : Word) :
    (s.writeReg r v).cycle = s.cycle := by
  unfold State.writeReg
  split <;> rfl
@[simp] theorem State.writeReg_retired (s : State) (r : Reg) (v : Word) :
    (s.writeReg r v).retired = s.retired := by
  unfold State.writeReg
  split <;> rfl
@[simp] theorem State.writeReg_branches (s : State) (r : Reg) (v : Word) :
    (s.writeReg r v).branches = s.branches := by
  unfold State.writeReg
  split <;> rfl
@[simp] theorem State.writeReg_mispred (s : State) (r : Reg) (v : Word) :
    (s.writeReg r v).mispred = s.mispred := by
  unfold State.writeReg
  split <;> rfl
@[simp] theorem State.writeReg_nseq (s : State) (r : Reg) (v : Word) :
    (s.writeReg r v).nseq = s.nseq := by
  unfold State.writeReg
  split <;> rfl
@[simp] theorem State.writeReg_status (s : State) (r : Reg) (v : Word) :
    (s.writeReg r v).status = s.status := by
  unfold State.writeReg
  split <;> rfl
@[simp] theorem State.writeReg_run (s : State) (r : Reg) (v : Word) :
    (s.writeReg r v).run = s.run := by
  unfold State.writeReg
  split <;> rfl
@[simp] theorem State.writeReg_trace (s : State) (r : Reg) (v : Word) :
    (s.writeReg r v).trace = s.trace := by
  unfold State.writeReg
  split <;> rfl

/-! ### stampEntry -/

@[simp] theorem State.stampEntry_cfg (s : State) (p : Nat) (f : Stamp) :
    (s.stampEntry p f).cfg = s.cfg := by
  unfold State.stampEntry
  split <;> rfl
@[simp] theorem State.stampEntry_x (s : State) (p : Nat) (f : Stamp) :
    (s.stampEntry p f).x = s.x := by
  unfold State.stampEntry
  split <;> rfl
@[simp] theorem State.stampEntry_mem (s : State) (p : Nat) (f : Stamp) :
    (s.stampEntry p f).mem = s.mem := by
  unfold State.stampEntry
  split <;> rfl
@[simp] theorem State.stampEntry_pc (s : State) (p : Nat) (f : Stamp) :
    (s.stampEntry p f).pc = s.pc := by
  unfold State.stampEntry
  split <;> rfl
@[simp] theorem State.stampEntry_rs (s : State) (p : Nat) (f : Stamp) :
    (s.stampEntry p f).rs = s.rs := by
  unfold State.stampEntry
  split <;> rfl
@[simp] theorem State.stampEntry_rob (s : State) (p : Nat) (f : Stamp) :
    (s.stampEntry p f).rob = s.rob := by
  unfold State.stampEntry
  split <;> rfl
@[simp] theorem State.stampEntry_head (s : State) (p : Nat) (f : Stamp) :
    (s.stampEntry p f).head = s.head := by
  unfold State.stampEntry
  split <;> rfl
@[simp] theorem State.stampEntry_tail (s : State) (p : Nat) (f : Stamp) :
    (s.stampEntry p f).tail = s.tail := by
  unfold State.stampEntry
  split <;> rfl
@[simp] theorem State.stampEntry_stat (s : State) (p : Nat) (f : Stamp) :
    (s.stampEntry p f).stat = s.stat := by
  unfold State.stampEntry
  split <;> rfl
@[simp] theorem State.stampEntry_cdb (s : State) (p : Nat) (f : Stamp) :
    (s.stampEntry p f).cdb = s.cdb := by
  unfold State.stampEntry
  split <;> rfl
@[simp] theorem State.stampEntry_cycle (s : State) (p : Nat) (f : Stamp) :
    (s.stampEntry p f).cycle = s.cycle := by
  unfold State.stampEntry
  split <;> rfl
@[simp] theorem State.stampEntry_retired (s : State) (p : Nat) (f : Stamp) :
    (s.stampEntry p f).retired = s.retired := by
  unfold State.stampEntry
  split <;> rfl
@[simp] theorem State.stampEntry_branches (s : State) (p : Nat) (f : Stamp) :
    (s.stampEntry p f).branches = s.branches := by
  unfold State.stampEntry
  split <;> rfl
@[simp] theorem State.stampEntry_mispred (s : State) (p : Nat) (f : Stamp) :
    (s.stampEntry p f).mispred = s.mispred := by
  unfold State.stampEntry
  split <;> rfl
@[simp] theorem State.stampEntry_nseq (s : State) (p : Nat) (f : Stamp) :
    (s.stampEntry p f).nseq = s.nseq := by
  unfold State.stampEntry
  split <;> rfl
@[simp] theorem State.stampEntry_status (s : State) (p : Nat) (f : Stamp) :
    (s.stampEntry p f).status = s.status := by
  unfold State.stampEntry
  split <;> rfl
@[simp] theorem State.stampEntry_run (s : State) (p : Nat) (f : Stamp) :
    (s.stampEntry p f).run = s.run := by
  unfold State.stampEntry
  split <;> rfl

/-! ### retireRegister -/

@[simp] theorem State.retireRegister_cfg (s : State) (e : RobEntry) :
    (s.retireRegister e).cfg = s.cfg := by
  unfold State.retireRegister
  split <;> simp
@[simp] theorem State.retireRegister_mem (s : State) (e : RobEntry) :
    (s.retireRegister e).mem = s.mem := by
  unfold State.retireRegister
  split <;> simp
@[simp] theorem State.retireRegister_pc (s : State) (e : RobEntry) :
    (s.retireRegister e).pc = s.pc := by
  unfold State.retireRegister
  split <;> simp
@[simp] theorem State.retireRegister_rs (s : State) (e : RobEntry) :
    (s.retireRegister e).rs = s.rs := by
  unfold State.retireRegister
  split <;> simp
@[simp] theorem State.retireRegister_rob (s : State) (e : RobEntry) :
    (s.retireRegister e).rob = s.rob := by
  unfold State.retireRegister
  split <;> simp
@[simp] theorem State.retireRegister_head (s : State) (e : RobEntry) :
    (s.retireRegister e).head = s.head := by
  unfold State.retireRegister
  split <;> simp
@[simp] theorem State.retireRegister_tail (s : State) (e : RobEntry) :
    (s.retireRegister e).tail = s.tail := by
  unfold State.retireRegister
  split <;> simp
@[simp] theorem State.retireRegister_stat (s : State) (e : RobEntry) :
    (s.retireRegister e).stat = s.stat := by
  unfold State.retireRegister
  split <;> simp
@[simp] theorem State.retireRegister_cdb (s : State) (e : RobEntry) :
    (s.retireRegister e).cdb = s.cdb := by
  unfold State.retireRegister
  split <;> simp
@[simp] theorem State.retireRegister_cycle (s : State) (e : RobEntry) :
    (s.retireRegister e).cycle = s.cycle := by
  unfold State.retireRegister
  split <;> simp
@[simp] theorem State.retireRegister_retired (s : State) (e : RobEntry) :
    (s.retireRegister e).retired = s.retired := by
  unfold State.retireRegister
  split <;> simp
@[simp] theorem State.retireRegister_branches (s : State) (e : RobEntry) :
    (s.retireRegister e).branches = s.branches := by
  unfold State.retireRegister
  split <;> simp
@[simp] theorem State.retireRegister_mispred (s : State) (e : RobEntry) :
    (s.retireRegister e).mispred = s.mispred := by
  unfold State.retireRegister
  split <;> simp
@[simp] theorem State.retireRegister_nseq (s : State) (e : RobEntry) :
    (s.retireRegister e).nseq = s.nseq := by
  unfold State.retireRegister
  split <;> simp
@[simp] theorem State.retireRegister_status (s : State) (e : RobEntry) :
    (s.retireRegister e).status = s.status := by
  unfold State.retireRegister
  split <;> simp
@[simp] theorem State.retireRegister_run (s : State) (e : RobEntry) :
    (s.retireRegister e).run = s.run := by
  unfold State.retireRegister
  split <;> simp
@[simp] theorem State.retireRegister_trace (s : State) (e : RobEntry) :
    (s.retireRegister e).trace = s.trace := by
  unfold State.retireRegister
  split <;> simp

/-! ### retireMemory -/

@[simp] theorem State.retireMemory_cfg (s : State) (e : RobEntry) :
    (s.retireMemory e).cfg = s.cfg := by
  unfold State.retireMemory
  split <;> simp
@[simp] theorem State.retireMemory_x (s : State) (e : RobEntry) :
    (s.retireMemory e).x = s.x := by
  unfold State.retireMemory
  split <;> simp
@[simp] theorem State.retireMemory_pc (s : State) (e : RobEntry) :
    (s.retireMemory e).pc = s.pc := by
  unfold State.retireMemory
  split <;> simp
@[simp] theorem State.retireMemory_rs (s : State) (e : RobEntry) :
    (s.retireMemory e).rs = s.rs := by
  unfold State.retireMemory
  split <;> simp
@[simp] theorem State.retireMemory_rob (s : State) (e : RobEntry) :
    (s.retireMemory e).rob = s.rob := by
  unfold State.retireMemory
  split <;> simp
@[simp] theorem State.retireMemory_head (s : State) (e : RobEntry) :
    (s.retireMemory e).head = s.head := by
  unfold State.retireMemory
  split <;> simp
@[simp] theorem State.retireMemory_tail (s : State) (e : RobEntry) :
    (s.retireMemory e).tail = s.tail := by
  unfold State.retireMemory
  split <;> simp
@[simp] theorem State.retireMemory_stat (s : State) (e : RobEntry) :
    (s.retireMemory e).stat = s.stat := by
  unfold State.retireMemory
  split <;> simp
@[simp] theorem State.retireMemory_cdb (s : State) (e : RobEntry) :
    (s.retireMemory e).cdb = s.cdb := by
  unfold State.retireMemory
  split <;> simp
@[simp] theorem State.retireMemory_cycle (s : State) (e : RobEntry) :
    (s.retireMemory e).cycle = s.cycle := by
  unfold State.retireMemory
  split <;> simp
@[simp] theorem State.retireMemory_retired (s : State) (e : RobEntry) :
    (s.retireMemory e).retired = s.retired := by
  unfold State.retireMemory
  split <;> simp
@[simp] theorem State.retireMemory_branches (s : State) (e : RobEntry) :
    (s.retireMemory e).branches = s.branches := by
  unfold State.retireMemory
  split <;> simp
@[simp] theorem State.retireMemory_mispred (s : State) (e : RobEntry) :
    (s.retireMemory e).mispred = s.mispred := by
  unfold State.retireMemory
  split <;> simp
@[simp] theorem State.retireMemory_nseq (s : State) (e : RobEntry) :
    (s.retireMemory e).nseq = s.nseq := by
  unfold State.retireMemory
  split <;> simp
@[simp] theorem State.retireMemory_status (s : State) (e : RobEntry) :
    (s.retireMemory e).status = s.status := by
  unfold State.retireMemory
  split <;> simp
@[simp] theorem State.retireMemory_run (s : State) (e : RobEntry) :
    (s.retireMemory e).run = s.run := by
  unfold State.retireMemory
  split <;> simp
@[simp] theorem State.retireMemory_trace (s : State) (e : RobEntry) :
    (s.retireMemory e).trace = s.trace := by
  unfold State.retireMemory
  split <;> simp

/-! ### clearMapping -/

@[simp] theorem State.clearMapping_cfg (s : State) (e : RobEntry) (h : Nat) :
    (s.clearMapping e h).cfg = s.cfg := by
  unfold State.clearMapping
  split
  · split <;> simp
  · rfl
@[simp] theorem State.clearMapping_x (s : State) (e : RobEntry) (h : Nat) :
    (s.clearMapping e h).x = s.x := by
  unfold State.clearMapping
  split
  · split <;> simp
  · rfl
@[simp] theorem State.clearMapping_mem (s : State) (e : RobEntry) (h : Nat) :
    (s.clearMapping e h).mem = s.mem := by
  unfold State.clearMapping
  split
  · split <;> simp
  · rfl
@[simp] theorem State.clearMapping_pc (s : State) (e : RobEntry) (h : Nat) :
    (s.clearMapping e h).pc = s.pc := by
  unfold State.clearMapping
  split
  · split <;> simp
  · rfl
@[simp] theorem State.clearMapping_rs (s : State) (e : RobEntry) (h : Nat) :
    (s.clearMapping e h).rs = s.rs := by
  unfold State.clearMapping
  split
  · split <;> simp
  · rfl
@[simp] theorem State.clearMapping_rob (s : State) (e : RobEntry) (h : Nat) :
    (s.clearMapping e h).rob = s.rob := by
  unfold State.clearMapping
  split
  · split <;> simp
  · rfl
@[simp] theorem State.clearMapping_head (s : State) (e : RobEntry) (h : Nat) :
    (s.clearMapping e h).head = s.head := by
  unfold State.clearMapping
  split
  · split <;> simp
  · rfl
@[simp] theorem State.clearMapping_tail (s : State) (e : RobEntry) (h : Nat) :
    (s.clearMapping e h).tail = s.tail := by
  unfold State.clearMapping
  split
  · split <;> simp
  · rfl
@[simp] theorem State.clearMapping_cdb (s : State) (e : RobEntry) (h : Nat) :
    (s.clearMapping e h).cdb = s.cdb := by
  unfold State.clearMapping
  split
  · split <;> simp
  · rfl
@[simp] theorem State.clearMapping_cycle (s : State) (e : RobEntry) (h : Nat) :
    (s.clearMapping e h).cycle = s.cycle := by
  unfold State.clearMapping
  split
  · split <;> simp
  · rfl
@[simp] theorem State.clearMapping_retired (s : State) (e : RobEntry) (h : Nat) :
    (s.clearMapping e h).retired = s.retired := by
  unfold State.clearMapping
  split
  · split <;> simp
  · rfl
@[simp] theorem State.clearMapping_branches (s : State) (e : RobEntry) (h : Nat) :
    (s.clearMapping e h).branches = s.branches := by
  unfold State.clearMapping
  split
  · split <;> simp
  · rfl
@[simp] theorem State.clearMapping_mispred (s : State) (e : RobEntry) (h : Nat) :
    (s.clearMapping e h).mispred = s.mispred := by
  unfold State.clearMapping
  split
  · split <;> simp
  · rfl
@[simp] theorem State.clearMapping_nseq (s : State) (e : RobEntry) (h : Nat) :
    (s.clearMapping e h).nseq = s.nseq := by
  unfold State.clearMapping
  split
  · split <;> simp
  · rfl
@[simp] theorem State.clearMapping_status (s : State) (e : RobEntry) (h : Nat) :
    (s.clearMapping e h).status = s.status := by
  unfold State.clearMapping
  split
  · split <;> simp
  · rfl
@[simp] theorem State.clearMapping_run (s : State) (e : RobEntry) (h : Nat) :
    (s.clearMapping e h).run = s.run := by
  unfold State.clearMapping
  split
  · split <;> simp
  · rfl
@[simp] theorem State.clearMapping_trace (s : State) (e : RobEntry) (h : Nat) :
    (s.clearMapping e h).trace = s.trace := by
  unfold State.clearMapping
  split
  · split <;> simp
  · rfl

/-! ### beginExecution -/

@[simp] theorem State.beginExecution_cfg (s : State) (st : Station) :
    (s.beginExecution st).cfg = s.cfg := by
  simp [State.beginExecution]
@[simp] theorem State.beginExecution_x (s : State) (st : Station) :
    (s.beginExecution st).x = s.x := by
  simp [State.beginExecution]
@[simp] theorem State.beginExecution_mem (s : State) (st : Station) :
    (s.beginExecution st).mem = s.mem := by
  simp [State.beginExecution]
@[simp] theorem State.beginExecution_pc (s : State) (st : Station) :
    (s.beginExecution st).pc = s.pc := by
  simp [State.beginExecution]
@[simp] theorem State.beginExecution_rs (s : State) (st : Station) :
    (s.beginExecution st).rs = s.rs := by
  simp [State.beginExecution]
@[simp] theorem State.beginExecution_head (s : State) (st : Station) :
    (s.beginExecution st).head = s.head := by
  simp [State.beginExecution]
@[simp] theorem State.beginExecution_tail (s : State) (st : Station) :
    (s.beginExecution st).tail = s.tail := by
  simp [State.beginExecution]
@[simp] theorem State.beginExecution_stat (s : State) (st : Station) :
    (s.beginExecution st).stat = s.stat := by
  simp [State.beginExecution]
@[simp] theorem State.beginExecution_cdb (s : State) (st : Station) :
    (s.beginExecution st).cdb = s.cdb := by
  simp [State.beginExecution]
@[simp] theorem State.beginExecution_cycle (s : State) (st : Station) :
    (s.beginExecution st).cycle = s.cycle := by
  simp [State.beginExecution]
@[simp] theorem State.beginExecution_retired (s : State) (st : Station) :
    (s.beginExecution st).retired = s.retired := by
  simp [State.beginExecution]
@[simp] theorem State.beginExecution_branches (s : State) (st : Station) :
    (s.beginExecution st).branches = s.branches := by
  simp [State.beginExecution]
@[simp] theorem State.beginExecution_mispred (s : State) (st : Station) :
    (s.beginExecution st).mispred = s.mispred := by
  simp [State.beginExecution]
@[simp] theorem State.beginExecution_nseq (s : State) (st : Station) :
    (s.beginExecution st).nseq = s.nseq := by
  simp [State.beginExecution]
@[simp] theorem State.beginExecution_status (s : State) (st : Station) :
    (s.beginExecution st).status = s.status := by
  simp [State.beginExecution]
@[simp] theorem State.beginExecution_run (s : State) (st : Station) :
    (s.beginExecution st).run = s.run := by
  simp [State.beginExecution]

/-! ### squashOne -/

@[simp] theorem State.squashOne_cfg (s : State) (q : Nat) :
    (s.squashOne q).cfg = s.cfg := by
  unfold State.squashOne
  simp only [State.setEntry_cfg, State.mapStations_cfg]
  split
  · split <;> simp
  · rfl
@[simp] theorem State.squashOne_x (s : State) (q : Nat) :
    (s.squashOne q).x = s.x := by
  unfold State.squashOne
  simp only [State.setEntry_x, State.mapStations_x]
  split
  · split <;> simp
  · rfl
@[simp] theorem State.squashOne_mem (s : State) (q : Nat) :
    (s.squashOne q).mem = s.mem := by
  unfold State.squashOne
  simp only [State.setEntry_mem, State.mapStations_mem]
  split
  · split <;> simp
  · rfl
@[simp] theorem State.squashOne_pc (s : State) (q : Nat) :
    (s.squashOne q).pc = s.pc := by
  unfold State.squashOne
  simp only [State.setEntry_pc, State.mapStations_pc]
  split
  · split <;> simp
  · rfl
@[simp] theorem State.squashOne_head (s : State) (q : Nat) :
    (s.squashOne q).head = s.head := by
  unfold State.squashOne
  simp only [State.setEntry_head, State.mapStations_head]
  split
  · split <;> simp
  · rfl
@[simp] theorem State.squashOne_tail (s : State) (q : Nat) :
    (s.squashOne q).tail = s.tail := by
  unfold State.squashOne
  simp only [State.setEntry_tail, State.mapStations_tail]
  split
  · split <;> simp
  · rfl
@[simp] theorem State.squashOne_cdb (s : State) (q : Nat) :
    (s.squashOne q).cdb = s.cdb := by
  unfold State.squashOne
  simp only [State.setEntry_cdb, State.mapStations_cdb]
  split
  · split <;> simp
  · rfl
@[simp] theorem State.squashOne_cycle (s : State) (q : Nat) :
    (s.squashOne q).cycle = s.cycle := by
  unfold State.squashOne
  simp only [State.setEntry_cycle, State.mapStations_cycle]
  split
  · split <;> simp
  · rfl
@[simp] theorem State.squashOne_retired (s : State) (q : Nat) :
    (s.squashOne q).retired = s.retired := by
  unfold State.squashOne
  simp only [State.setEntry_retired, State.mapStations_retired]
  split
  · split <;> simp
  · rfl
@[simp] theorem State.squashOne_branches (s : State) (q : Nat) :
    (s.squashOne q).branches = s.branches := by
  unfold State.squashOne
  simp only [State.setEntry_branches, State.mapStations_branches]
  split
  · split <;> simp
  · rfl
@[simp] theorem State.squashOne_mispred (s : State) (q : Nat) :
    (s.squashOne q).mispred = s.mispred := by
  unfold State.squashOne
  simp only [State.setEntry_mispred, State.mapStations_mispred]
  split
  · split <;> simp
  · rfl
@[simp] theorem State.squashOne_nseq (s : State) (q : Nat) :
    (s.squashOne q).nseq = s.nseq := by
  unfold State.squashOne
  simp only [State.setEntry_nseq, State.mapStations_nseq]
  split
  · split <;> simp
  · rfl
@[simp] theorem State.squashOne_status (s : State) (q : Nat) :
    (s.squashOne q).status = s.status := by
  unfold State.squashOne
  simp only [State.setEntry_status, State.mapStations_status]
  split
  · split <;> simp
  · rfl
@[simp] theorem State.squashOne_run (s : State) (q : Nat) :
    (s.squashOne q).run = s.run := by
  unfold State.squashOne
  simp only [State.setEntry_run, State.mapStations_run]
  split
  · split <;> simp
  · rfl
@[simp] theorem State.squashOne_trace (s : State) (q : Nat) :
    (s.squashOne q).trace = s.trace := by
  unfold State.squashOne
  simp only [State.setEntry_trace, State.mapStations_trace]
  split
  · split <;> simp
  · rfl

end Sys2Proof.Machine
end

