-- ==== Sys2Proof/Laws/Rob.lean ====
section
/-! SUPPORT. The reorder buffer as a circular queue: ages, the in-flight ids, the slots under the operations that write
them (44_rob.md). -/

namespace Sys2Proof.Machine

/-! ## Slots -/

theorem State.entry_setEntry (s : State) (p q : Nat) (e : Option RobEntry) :
    (s.setEntry p e).entry q = if q = p ∧ p < s.rob.length then e else s.entry q := by
  simp only [State.entry, State.setEntry_rob, List.getD_eq_getElem?_getD, List.getElem?_set]
  by_cases h : p = q
  · subst h
    by_cases hl : p < s.rob.length
    · simp [hl]
    · simp [hl]
  · simp [h, show ¬ q = p from fun e => h e.symm]

theorem State.entry_modifyEntry (s : State) (p q : Nat) (f : RobEntry → RobEntry) :
    (s.modifyEntry p f).entry q = if q = p then (s.entry q).map f else s.entry q := by
  simp only [State.entry, State.modifyEntry_rob, List.getD_eq_getElem?_getD, List.getElem?_modify]
  by_cases h : q = p
  · subst h
    cases hq : s.rob[q]? <;> simp
  · simp [h, show ¬ p = q from fun e => h e.symm]

/-- An entry is there only in a slot of the buffer. -/
theorem State.entry_lt (s : State) {p : Nat} {e : RobEntry} (h : s.entry p = some e) : p < s.rob.length := by
  by_contra hl
  simp [State.entry, List.getD_eq_getElem?_getD, List.getElem?_eq_none (Nat.le_of_not_lt hl)] at h

/-- Operations that keep the slots keep the entries. -/
theorem State.entry_congr {s t : State} (h : t.rob = s.rob) (p : Nat) : t.entry p = s.entry p := by
  simp [State.entry, h]

theorem State.entry_recomputeSpec (s : State) (p : Nat) :
    s.recomputeSpec.entry p =
      (s.entry p).map fun e => { e with spec := s.specBit e.op (s.olderThan p) } := by
  simp only [State.entry, State.recomputeSpec_rob, List.getD_eq_getElem?_getD, List.getElem?_mapIdx]
  cases hp : s.rob[p]? <;> simp

/-! ## Ages (R35, R151, R155) -/

theorem State.age_lt (s : State) (h : 0 < s.n) (p : Nat) : s.age p < s.n := Nat.mod_lt _ h

theorem State.count_lt (s : State) (h : 0 < s.n) : s.count < s.n := Nat.mod_lt _ h

/-- The age of a slot, without the modulus. -/
theorem State.age_eq (s : State) {p : Nat} (hh : s.head < s.n) (hp : p < s.n) :
    s.age p = if s.head ≤ p then p - s.head else p + s.n - s.head := by
  unfold State.age
  split
  · next h =>
    rw [show p + s.n - s.head = (p - s.head) + s.n by omega, Nat.add_mod_right, Nat.mod_eq_of_lt (by omega)]
  · next h => exact Nat.mod_eq_of_lt (by omega)

/-- The number of in-flight entries, without the modulus: the age the slot at `tail` would have. -/
theorem State.count_eq (s : State) (hh : s.head < s.n) (ht : s.tail < s.n) :
    s.count = if s.head ≤ s.tail then s.tail - s.head else s.tail + s.n - s.head :=
  s.age_eq hh ht

/-- The slot at a distance from the head, without the modulus. -/
theorem State.slot_eq (s : State) {a : Nat} (hh : s.head < s.n) (ha : a < s.n) :
    (s.head + a) % s.n = if s.head + a < s.n then s.head + a else s.head + a - s.n := by
  split
  · next h => exact Nat.mod_eq_of_lt h
  · next h =>
    rw [Nat.mod_eq_sub_mod (by omega), Nat.mod_eq_of_lt (by omega)]

theorem State.age_slot (s : State) {a : Nat} (hh : s.head < s.n) (ha : a < s.n) :
    s.age ((s.head + a) % s.n) = a := by
  have hlt : (s.head + a) % s.n < s.n := Nat.mod_lt _ (by omega)
  rw [s.age_eq hh hlt, s.slot_eq hh ha]
  split_ifs <;> omega

theorem State.slot_age (s : State) {p : Nat} (hh : s.head < s.n) (hp : p < s.n) :
    (s.head + s.age p) % s.n = p := by
  have ha : s.age p < s.n := s.age_lt (by omega) p
  rw [s.slot_eq hh ha, s.age_eq hh hp]
  split_ifs <;> omega

/-- Two slots of one age are one slot. -/
theorem State.age_inj (s : State) {p q : Nat} (hh : s.head < s.n) (hp : p < s.n) (hq : q < s.n)
    (h : s.age p = s.age q) : p = q := by
  rw [← s.slot_age hh hp, ← s.slot_age hh hq, h]

theorem State.age_head (s : State) (hh : s.head < s.n) : s.age s.head = 0 := by
  rw [s.age_eq hh hh]
  simp

/-- The ids listed as in flight are the slots whose age is below the count (R35). -/
theorem State.mem_inFlight (s : State) (hh : s.head < s.n) (p : Nat) : p ∈ s.inFlight ↔ s.InFlight p := by
  have hn : 0 < s.n := by omega
  simp only [State.inFlight, List.mem_map, List.mem_range, State.InFlight]
  constructor
  · rintro ⟨a, ha, rfl⟩
    refine ⟨Nat.mod_lt _ hn, ?_⟩
    rw [s.age_slot hh (lt_trans ha (s.count_lt hn))]
    exact ha
  · rintro ⟨hp, ha⟩
    exact ⟨s.age p, ha, s.slot_age hh hp⟩

theorem State.inFlight_length (s : State) : s.inFlight.length = s.count := by simp [State.inFlight]

/-- The in-flight id of a given age (R35). -/
theorem State.getElem_inFlight (s : State) {a : Nat} (ha : a < s.count) :
    s.inFlight[a]? = some ((s.head + a) % s.n) := by
  simp [State.inFlight, ha]

theorem State.inFlight_nodup (s : State) (hh : s.head < s.n) : s.inFlight.Nodup := by
  have hn : 0 < s.n := by omega
  refine List.Nodup.map_on ?_ List.nodup_range
  intro a ha b hb h
  have ha' := lt_trans (List.mem_range.mp ha) (s.count_lt hn)
  have hb' := lt_trans (List.mem_range.mp hb) (s.count_lt hn)
  rw [← s.age_slot hh ha', h, s.age_slot hh hb']

/-- The buffer is empty exactly when nothing is in flight (R151). -/
theorem State.count_eq_zero (s : State) (hh : s.head < s.n) (ht : s.tail < s.n) :
    s.count = 0 ↔ s.head = s.tail := by
  rw [s.count_eq hh ht]
  split_ifs <;> omega

/-- The buffer is full exactly when one more entry would fill every slot (R151, R153). -/
theorem State.robFull_iff (s : State) (hh : s.head < s.n) (ht : s.tail < s.n) :
    s.robFull = true ↔ s.count + 1 = s.n := by
  simp only [State.robFull, beq_iff_eq]
  rw [s.count_eq hh ht]
  rcases Nat.lt_or_ge (s.tail + 1) s.n with h | h
  · rw [Nat.mod_eq_of_lt h]
    split_ifs <;> omega
  · have : s.tail + 1 = s.n := by omega
    rw [this, Nat.mod_self]
    split_ifs <;> omega

theorem State.robEmpty_iff (s : State) : s.robEmpty = true ↔ s.head = s.tail := by
  simp [State.robEmpty]

/-! ## The head (R154) -/

/-- What it says that the head is ready to commit. -/
theorem State.readyHead_eq_some (s : State) (e : RobEntry) :
    s.readyHead = some e ↔
      s.head ≠ s.tail ∧ s.entry s.head = some e ∧ e.phase = .written ∧ e.value.isSome = true := by
  unfold State.readyHead
  by_cases h : s.head = s.tail
  · simp [State.robEmpty, h]
  · simp [State.robEmpty, h, Option.filter_eq_some_iff, RobEntry.done, RobEntry.ready]

/-- Some entry in flight is a `RET` (R181). -/
theorem State.retInFlight_iff (s : State) (hh : s.head < s.n) :
    s.retInFlight = true ↔ ∃ p e, s.InFlight p ∧ s.entry p = some e ∧ e.op = .ret := by
  simp only [State.retInFlight, List.any_eq_true, State.mem_inFlight s hh, State.opAt, beq_iff_eq,
    Option.map_eq_some_iff]
  constructor
  · rintro ⟨p, hp, e, he, ho⟩
    exact ⟨p, e, hp, he, ho⟩
  · rintro ⟨p, e, hp, he, ho⟩
    exact ⟨p, hp, e, he, ho⟩

end Sys2Proof.Machine
end

