-- ==== Sys2Proof/Laws/Tables.lean ====
section
/-! SUPPORT. Reading a table after setting one of its entries. -/

namespace Sys2Proof

@[simp] theorem PerClass.get_set {α : Type} (t : PerClass α) (c d : Opcode) (v : α) :
    (t.set c v).get d = if d = c then v else t.get d := by
  cases c <;> cases d <;> rfl

theorem PerClass.get_set_same {α : Type} (t : PerClass α) (c : Opcode) (v : α) : (t.set c v).get c = v := by
  simp

theorem PerClass.get_set_other {α : Type} (t : PerClass α) (c d : Opcode) (v : α) (h : d ≠ c) :
    (t.set c v).get d = t.get d := by
  simp [h]

@[simp] theorem PerClass.get_ofFn {α : Type} (f : Opcode → α) (c : Opcode) : (PerClass.ofFn f).get c = f c := by
  cases c <;> rfl

@[simp] theorem PerClass.get_map {α β : Type} (f : α → β) (t : PerClass α) (c : Opcode) :
    (t.map f).get c = f (t.get c) := by
  cases c <;> rfl

theorem PerClass.ext_get {α : Type} {t u : PerClass α} (h : ∀ c, t.get c = u.get c) : t = u := by
  cases t
  cases u
  have h0 := h .load
  have h1 := h .store
  have h2 := h .beq
  have h3 := h .call
  have h4 := h .ret
  have h5 := h .add
  have h6 := h .addi
  have h7 := h .nand
  have h8 := h .mul
  simp only [PerClass.get] at h0 h1 h2 h3 h4 h5 h6 h7 h8
  simp [h0, h1, h2, h3, h4, h5, h6, h7, h8]

@[simp] theorem PerReg.get_set {α : Type} (t : PerReg α) (r q : Reg) (v : α) :
    (t.set r v).get q = if q = r then v else t.get q := by
  fin_cases r <;> fin_cases q <;> rfl

theorem PerReg.get_set_same {α : Type} (t : PerReg α) (r : Reg) (v : α) : (t.set r v).get r = v := by
  simp

theorem PerReg.get_set_other {α : Type} (t : PerReg α) (r q : Reg) (v : α) (h : q ≠ r) :
    (t.set r v).get q = t.get q := by
  simp [h]

@[simp] theorem PerReg.get_const {α : Type} (v : α) (r : Reg) : (PerReg.const v).get r = v := by
  fin_cases r <;> rfl

theorem PerReg.ext_get {α : Type} {t u : PerReg α} (h : ∀ r, t.get r = u.get r) : t = u := by
  cases t
  cases u
  have h0 := h 0
  have h1 := h 1
  have h2 := h 2
  have h3 := h 3
  have h4 := h 4
  have h5 := h 5
  have h6 := h 6
  have h7 := h 7
  simp only [PerReg.get] at h0 h1 h2 h3 h4 h5 h6 h7
  simp_all

@[simp] theorem Opcode.mem_all (c : Opcode) : c ∈ Opcode.all := by
  cases c <;> decide

@[simp] theorem Reg.mem_all (r : Reg) : r ∈ Reg.all := by
  fin_cases r <;> decide

end Sys2Proof
end

