-- ==== Sys2Proof/Laws/Stations.lean ====
section
/-! SUPPORT. The station pool: one station under the operations that write stations, acquisition, the list of busy stations
(43_rs_pool.md). -/

namespace Sys2Proof.Machine

theorem State.station_congr {s t : State} (h : t.rs = s.rs) (c : Opcode) (k : Nat) :
    t.station c k = s.station c k := by
  simp [State.station, h]

theorem State.station_lt (s : State) {c : Opcode} {k : Nat} {st : Station} (h : s.station c k = some st) :
    k < (s.rs.get c).length := by
  by_contra hl
  simp [State.station, List.getD_eq_getElem?_getD, List.getElem?_eq_none (Nat.le_of_not_lt hl)] at h

theorem State.station_setStation (s : State) (c d : Opcode) (k l : Nat) (st : Option Station) :
    (s.setStation c k st).station d l =
      if d = c ∧ l = k ∧ k < (s.rs.get c).length then st else s.station d l := by
  simp only [State.station, State.setStation_rs, PerClass.get_set, List.getD_eq_getElem?_getD]
  by_cases hd : d = c
  · subst hd
    simp only [if_true, List.getElem?_set]
    by_cases hk : k = l
    · subst hk
      by_cases hl : k < (s.rs.get d).length
      · simp [hl]
      · simp [hl]
    · simp [hk, show ¬ l = k from fun e => hk e.symm]
  · simp [hd]

theorem State.station_release (s : State) (c d : Opcode) (k l : Nat) :
    (s.release c k).station d l = if d = c ∧ l = k then none else s.station d l := by
  rw [State.release, State.station_setStation]
  by_cases h : d = c ∧ l = k
  · obtain ⟨rfl, rfl⟩ := h
    by_cases hl : l < (s.rs.get d).length
    · simp [hl]
    · simp [hl, State.station, List.getD_eq_getElem?_getD]
  · have h' : ¬ (d = c ∧ l = k ∧ k < (s.rs.get c).length) := fun ⟨a, b, _⟩ => h ⟨a, b⟩
    simp [h, h']

/-- A change that keeps idle stations idle, applied to the whole pool. -/
theorem State.station_mapStations (s : State) (f : Option Station → Option Station) (hf : f none = none)
    (c : Opcode) (k : Nat) : (s.mapStations f).station c k = f (s.station c k) := by
  simp only [State.station, State.mapStations_rs, PerClass.get_map, List.getD_eq_getElem?_getD, List.getElem?_map]
  cases h : (s.rs.get c)[k]? <;> simp [hf]

/-- The number of stations of a class never changes. -/
theorem State.length_setStation (s : State) (c d : Opcode) (k : Nat) (st : Option Station) :
    ((s.setStation c k st).rs.get d).length = (s.rs.get d).length := by
  by_cases h : d = c
  · subst h
    simp
  · simp [h]

theorem State.length_mapStations (s : State) (f : Option Station → Option Station) (d : Opcode) :
    ((s.mapStations f).rs.get d).length = (s.rs.get d).length := by
  simp

/-- `tryAcquire` answers the lowest free station of the class (R131). -/
theorem State.tryAcquire_eq_some (s : State) (c : Opcode) (k : Nat) :
    s.tryAcquire c = some k ↔
      (k < (s.rs.get c).length ∧ s.station c k = none) ∧ ∀ j, j < k → (s.station c j).isSome = true := by
  have hget : ∀ j (hj : j < (s.rs.get c).length), s.station c j = (s.rs.get c)[j] := fun j hj => by
    simp [State.station, List.getD_eq_getElem?_getD, List.getElem?_eq_getElem hj]
  rw [State.tryAcquire, List.findIdx?_eq_some_iff_getElem]
  constructor
  · rintro ⟨hk, hn, hlow⟩
    refine ⟨⟨hk, by rw [hget k hk]; simpa using hn⟩, fun j hj => ?_⟩
    rw [hget j (lt_trans hj hk)]
    have := hlow j hj
    cases hs : (s.rs.get c)[j] <;> simp_all
  · rintro ⟨⟨hk, hn⟩, hlow⟩
    refine ⟨hk, by rw [← hget k hk, hn]; rfl, fun j hj => ?_⟩
    have := hlow j hj
    rw [hget j (lt_trans hj hk)] at this
    cases hs : (s.rs.get c)[j] <;> simp_all

/-- `tryAcquire` fails exactly when every station of the class is busy (R131). -/
theorem State.tryAcquire_eq_none (s : State) (c : Opcode) :
    s.tryAcquire c = none ↔ ∀ k, k < (s.rs.get c).length → (s.station c k).isSome = true := by
  have hget : ∀ j (hj : j < (s.rs.get c).length), s.station c j = (s.rs.get c)[j] := fun j hj => by
    simp [State.station, List.getD_eq_getElem?_getD, List.getElem?_eq_getElem hj]
  rw [State.tryAcquire, List.findIdx?_eq_none_iff]
  constructor
  · intro h k hk
    have := h _ (List.getElem_mem hk)
    rw [hget k hk]
    cases hs : (s.rs.get c)[k] <;> simp_all
  · intro h x hx
    obtain ⟨k, hk, rfl⟩ := List.getElem_of_mem hx
    have := h k hk
    rw [hget k hk] at this
    cases hs : (s.rs.get c)[k] <;> simp_all

/-- A station is listed as busy exactly when some place of the pool holds it. -/
theorem State.mem_busyStations (s : State) (st : Station) :
    st ∈ s.busyStations ↔ ∃ c k, s.station c k = some st := by
  simp only [State.busyStations, List.mem_flatMap, List.mem_filterMap, id]
  constructor
  · rintro ⟨c, _, o, ho, rfl⟩
    obtain ⟨k, hk, hs⟩ := List.getElem_of_mem ho
    exact ⟨c, k, by simp [State.station, List.getD_eq_getElem?_getD, List.getElem?_eq_getElem hk, hs]⟩
  · rintro ⟨c, k, h⟩
    have hk := s.station_lt h
    refine ⟨c, Opcode.mem_all c, some st, ?_, rfl⟩
    have : (s.rs.get c)[k] = some st := by
      simpa [State.station, List.getD_eq_getElem?_getD, List.getElem?_eq_getElem hk] using h
    exact this ▸ List.getElem_mem hk

/-- No station is busy (R229). -/
theorem State.allIdle_iff (s : State) : s.allIdle = true ↔ ∀ c k, s.station c k = none := by
  rw [State.allIdle, List.isEmpty_iff]
  constructor
  · intro h c k
    cases hs : s.station c k with
    | none => rfl
    | some st =>
      have := (s.mem_busyStations st).mpr ⟨c, k, hs⟩
      simp [h] at this
  · intro h
    refine List.eq_nil_iff_forall_not_mem.mpr fun st hst => ?_
    obtain ⟨c, k, hs⟩ := (s.mem_busyStations st).mp hst
    simp [h c k] at hs

/-- The places visited by Execute and Write arbitration: every station of the pool. -/
theorem State.mem_stationIds (s : State) (c : Opcode) (k : Nat) :
    (c, k) ∈ s.stationIds ↔ k < (s.rs.get c).length := by
  simp [State.stationIds, Opcode.mem_all]

theorem State.stationIds_nodup (s : State) : s.stationIds.Nodup := by
  rw [State.stationIds, List.nodup_flatMap]
  refine ⟨fun c _ => (List.nodup_range).map fun a b h => by simpa using h, ?_⟩
  have hall : Opcode.all.Nodup := by decide
  refine hall.imp fun {c d} hcd => ?_
  intro x hx hy
  simp only [List.mem_map, List.mem_range] at hx hy
  obtain ⟨a, _, rfl⟩ := hx
  obtain ⟨b, _, hb⟩ := hy
  exact hcd (by simpa using (congrArg Prod.fst hb).symm)

end Sys2Proof.Machine
end

