-- ==== Sys2Proof/Laws/Invariants.lean ====
section
/-! SUPPORT. The test `invariantsHold` that `step` makes says exactly `Inv`. -/

namespace Sys2Proof.Machine

theorem latenciesOk_iff (c : Config) : c.latenciesOk = true ↔ ∀ op, 1 ≤ c.lat.get op := by
  simp [Config.latenciesOk]

theorem State.robShapeOk_iff (s : State) :
    s.robShapeOk = true ↔ s.rob.length = s.n ∧ s.head < s.n ∧ s.tail < s.n ∧
      ∀ p, p < s.n → ((s.entry p).isSome = true ↔ s.age p < s.count) := by
  have hb : ∀ (a : Bool) (P : Prop) [Decidable P], (a == decide P) = true ↔ (a = true ↔ P) := by
    intro a P _
    by_cases hP : P <;> simp [hP]
  simp only [State.robShapeOk, Bool.and_eq_true, beq_iff_eq, decide_eq_true_eq, List.all_eq_true, List.mem_range,
    and_assoc]
  refine and_congr_right fun _ => and_congr_right fun _ => and_congr_right fun _ => ?_
  exact forall_congr' fun p => forall_congr' fun _ => by
    constructor
    · intro h
      constructor
      · intro hs
        rw [hs] at h
        exact of_decide_eq_true h.symm
      · intro ha
        rw [h]
        exact decide_eq_true ha
    · intro h
      by_cases ha : s.age p < s.count
      · rw [h.mpr ha, decide_eq_true ha]
      · rw [decide_eq_false ha]
        cases hs : (s.entry p).isSome
        · rfl
        · exact absurd (h.mp hs) ha

theorem State.ownsInstr_iff (s : State) (e : RobEntry) :
    s.ownsInstr e = true ↔ e.idx < s.cfg.progLen ∧
      ∃ i, s.cfg.instrAt e.idx.toNat = some i ∧ i.opcode = e.op ∧ destOk i e = true := by
  simp only [State.ownsInstr, Bool.and_eq_true, decide_eq_true_eq]
  refine and_congr_right fun _ => ?_
  cases h : s.cfg.instrAt e.idx.toNat with
  | none => simp
  | some i => simp

theorem State.entryOk_iff (s : State) (p : Nat) (e : RobEntry) : s.entryOk p e = true ↔ EntryInv s p e := by
  have hphase : ((e.phase == .written) == e.value.isSome) = true ↔
      (e.phase = .written ↔ e.value.isSome = true) := by
    generalize e.value.isSome = b
    generalize e.phase = ph
    cases ph <;> cases b <;> decide
  constructor
  · intro h
    simp only [State.entryOk, Bool.and_eq_true, State.ownsInstr_iff] at h
    obtain ⟨⟨⟨⟨⟨h1, h2⟩, h3⟩, h4⟩, h5⟩, h6, h7⟩ := h
    exact ⟨by simpa using h1, hphase.mp h2, by simpa using h3, by simpa using h4, by simpa using h5, h6, h7⟩
  · intro ⟨h1, h2, h3, h4, h5, h6, h7⟩
    simp only [State.entryOk, Bool.and_eq_true, State.ownsInstr_iff]
    exact ⟨⟨⟨⟨⟨by simpa using h1, hphase.mpr h2⟩, by simpa using h3⟩, by simpa using h4⟩, by simpa using h5⟩, h6, h7⟩

/-- An entry is there exactly in the slots in flight. -/
theorem State.entry_inFlight (s : State) (hl : s.rob.length = s.n)
    (ho : ∀ p, p < s.n → ((s.entry p).isSome = true ↔ s.age p < s.count)) (p : Nat) :
    (∃ e, s.entry p = some e) ↔ s.InFlight p := by
  constructor
  · rintro ⟨e, he⟩
    have hp : p < s.n := hl ▸ s.entry_lt he
    exact ⟨hp, (ho p hp).mp (by simp [he])⟩
  · rintro ⟨hp, ha⟩
    exact Option.isSome_iff_exists.mp ((ho p hp).mpr ha)

theorem State.entriesOk_iff (s : State) (hl : s.rob.length = s.n) (hh : s.head < s.n)
    (ho : ∀ p, p < s.n → ((s.entry p).isSome = true ↔ s.age p < s.count)) :
    s.entriesOk = true ↔ ∀ p e, s.entry p = some e → EntryInv s p e := by
  simp only [State.entriesOk, List.all_eq_true]
  constructor
  · intro h p e he
    have := h p ((s.mem_inFlight hh p).mpr ((s.entry_inFlight hl ho p).mp ⟨e, he⟩))
    rw [he] at this
    exact (s.entryOk_iff p e).mp this
  · intro h p hp
    obtain ⟨e, he⟩ := (s.entry_inFlight hl ho p).mpr ((s.mem_inFlight hh p).mp hp)
    rw [he]
    exact (s.entryOk_iff p e).mpr (h p e he)

theorem State.statOk_iff (s : State) : s.statOk = true ↔ ∀ r, s.stat.get r = s.youngestWriter r := by
  simp [State.statOk]

theorem State.operandOk_iff (s : State) (rob : Nat) (o : Operand) : s.operandOk rob o = true ↔ TagInv s rob o := by
  cases o with
  | value v => simp [State.operandOk, TagInv]
  | waits q =>
    cases h : s.entry q with
    | none => simp [State.operandOk, TagInv, h]
    | some e =>
      cases hv : e.value <;> simp [State.operandOk, TagInv, h, RobEntry.ready, hv]

theorem State.stationOk_iff (s : State) (c : Opcode) (st : Station) : s.stationOk c st = true ↔ StationInv s c st := by
  have hres : (st.result.isSome == decide (st.left = 0)) = true ↔ (st.result.isSome = true ↔ st.left = 0) := by
    by_cases hl : st.left = 0 <;> cases st.result <;> simp [hl]
  have hadd : (match st.result with
      | some r => r.addr.isSome == (c == .load || c == .store)
      | none => true) = true ↔
      ∀ r, st.result = some r → (r.addr.isSome = true ↔ (c = .load ∨ c = .store)) := by
    have key : ∀ (b : Bool) (c : Opcode),
        (b == (c == .load || c == .store)) = true ↔ (b = true ↔ (c = .load ∨ c = .store)) := by
      intro b c
      cases b <;> cases c <;> decide
    cases st.result with
    | none => simp
    | some r =>
      simp only [Option.some.injEq, forall_eq']
      exact key _ _
  have hback : (match s.entry st.rob with
      | some e => e.op == c && e.idx == st.idx && e.phase == (if st.started then .executing else .issued)
      | none => false) = true ↔
      ∃ e, s.entry st.rob = some e ∧ e.op = c ∧ e.idx = st.idx ∧
        e.phase = if st.started then .executing else .issued := by
    cases s.entry st.rob with
    | none => simp
    | some e => simp [and_assoc]
  have hleft : (if st.started then st.j.present && st.k.present && decide (st.left < s.cfg.lat.get c)
      else decide (st.left = s.cfg.lat.get c)) = true ↔
      (st.started = false → st.left = s.cfg.lat.get c) ∧
        (st.started = true → st.j.tag = none ∧ st.k.tag = none ∧ st.left < s.cfg.lat.get c) := by
    cases st.started <;> simp [Operand.present, and_assoc]
  constructor
  · intro h
    simp only [State.stationOk, Bool.and_eq_true] at h
    obtain ⟨⟨⟨⟨⟨⟨h1, h2⟩, h3⟩, h4⟩, h5⟩, h6⟩, h7⟩ := h
    obtain ⟨h3a, h3b⟩ := hleft.mp h3
    exact ⟨by simpa using h1, hback.mp h2, h3a, h3b, hres.mp h4, hadd.mp h5, (s.operandOk_iff _ _).mp h6,
      (s.operandOk_iff _ _).mp h7⟩
  · intro ⟨h1, h2, h3a, h3b, h4, h5, h6, h7⟩
    simp only [State.stationOk, Bool.and_eq_true]
    exact ⟨⟨⟨⟨⟨⟨by simpa using h1, hback.mpr h2⟩, hleft.mpr ⟨h3a, h3b⟩⟩, hres.mpr h4⟩, hadd.mpr h5⟩,
      (s.operandOk_iff _ _).mpr h6⟩, (s.operandOk_iff _ _).mpr h7⟩

theorem State.stationsOk_iff (s : State) :
    s.stationsOk = true ↔ (∀ c, (s.rs.get c).length = s.cfg.rsCount.get c) ∧
      ∀ c k st, s.station c k = some st → StationInv s c st := by
  have hslot : ∀ c (slot : Option Station),
      slot.all (s.stationOk c) = true ↔ ∀ st, slot = some st → StationInv s c st := by
    intro c slot
    cases slot with
    | none => simp
    | some st => simp [s.stationOk_iff c st]
  simp only [State.stationsOk, List.all_eq_true, Bool.and_eq_true, beq_iff_eq, hslot]
  constructor
  · intro h
    refine ⟨fun c => (h c (Opcode.mem_all c)).1, fun c k st hs => ?_⟩
    have hk := s.station_lt hs
    refine (h c (Opcode.mem_all c)).2 ((s.rs.get c)[k]) (List.getElem_mem hk) st ?_
    simpa [State.station, List.getD_eq_getElem?_getD, List.getElem?_eq_getElem hk] using hs
  · rintro ⟨h1, h2⟩ c _
    refine ⟨h1 c, fun slot hslot st hst => ?_⟩
    obtain ⟨k, hk, hs⟩ := List.getElem_of_mem hslot
    exact h2 c k st (by
      simp [State.station, List.getD_eq_getElem?_getD, List.getElem?_eq_getElem hk, hs, hst])

theorem State.backlinksOk_iff (s : State) (hl : s.rob.length = s.n) (hh : s.head < s.n)
    (ho : ∀ p, p < s.n → ((s.entry p).isSome = true ↔ s.age p < s.count)) :
    s.backlinksOk = true ↔ ∀ p e, s.entry p = some e → s.stationsOf p = if e.value.isSome then 0 else 1 := by
  simp only [State.backlinksOk, List.all_eq_true, beq_iff_eq]
  constructor
  · intro h p e he
    have := h p ((s.mem_inFlight hh p).mpr ((s.entry_inFlight hl ho p).mp ⟨e, he⟩))
    simpa [he, RobEntry.ready] using this
  · intro h p hp
    obtain ⟨e, he⟩ := (s.entry_inFlight hl ho p).mpr ((s.mem_inFlight hh p).mp hp)
    simpa [he, RobEntry.ready] using h p e he

/-- The test is the invariant. -/
theorem invariantsHold_iff (s : State) : s.invariantsHold = true ↔ Inv s := by
  constructor
  · intro h
    simp only [State.invariantsHold, Bool.and_eq_true, latenciesOk_iff, State.robShapeOk_iff, State.statOk_iff,
      State.stationsOk_iff] at h
    obtain ⟨⟨⟨⟨⟨⟨⟨⟨⟨h1, h2, h3, h4, h5⟩, h6⟩, h7⟩, h8, h9⟩, h10⟩, h11⟩, h12⟩, h13⟩, h14⟩ := h
    exact
      { latencies := h1
        robLength := h2
        headLt := h3
        tailLt := h4
        occupied := h5
        entries := (s.entriesOk_iff h2 h3 h5).mp h6
        statYoungest := h7
        stationCount := h8
        stations := h9
        backlinks := (s.backlinksOk_iff h2 h3 h5).mp h10
        latchEmpty := by simpa using h11
        r0 := by simpa using h12
        memory := of_decide_eq_true h13
        traceLength := by simpa using h14 }
  · intro h
    simp only [State.invariantsHold, Bool.and_eq_true, latenciesOk_iff, State.robShapeOk_iff, State.statOk_iff,
      State.stationsOk_iff]
    exact ⟨⟨⟨⟨⟨⟨⟨⟨⟨h.latencies, h.robLength, h.headLt, h.tailLt, h.occupied⟩,
      (s.entriesOk_iff h.robLength h.headLt h.occupied).mpr h.entries⟩, h.statYoungest⟩, h.stationCount, h.stations⟩,
      (s.backlinksOk_iff h.robLength h.headLt h.occupied).mpr h.backlinks⟩, by simpa using h.latchEmpty⟩,
      by simpa using h.r0⟩, decide_eq_true h.memory⟩, by simpa using h.traceLength⟩

/-- A state shown to pass the test has the invariant. -/
theorem inv_of_test {s : State} (h : s.invariantsHold = true) : Inv s := (invariantsHold_iff s).mp h

/-- An entry is there exactly in the slots in flight. -/
theorem Inv.entry_inFlight {s : State} (h : Inv s) (p : Nat) : (∃ e, s.entry p = some e) ↔ s.InFlight p :=
  State.entry_inFlight s h.robLength h.occupied p

end Sys2Proof.Machine
end

