-- ==== Sys2Proof/Laws/Issue.lean ====
section
/-! SUPPORT. Operand capture and Issue: what `capture`, `issue` and `exec` can answer (43_rs_pool.md R133,
45_pipeline_driver.md R180, R183, R184). -/

namespace Sys2Proof.Machine

/-! ## Operand capture (R133) -/

@[simp] theorem State.capture_zero (s : State) : s.capture 0 = .value 0 := by simp [State.capture]

/-- A register no in-flight instruction will define is read from `x`. -/
theorem State.capture_of_unmapped (s : State) {r : Reg} (h : s.stat.get r = none) (hr : r ≠ 0) :
    s.capture r = .value (s.x.get r) := by
  simp [State.capture, h, hr]

/-- A capture waits only on the producer the register-status table names, and only where it has no result. -/
theorem State.capture_eq_waits (s : State) (r : Reg) (q : Nat) :
    s.capture r = .waits q ↔ r ≠ 0 ∧ s.stat.get r = some q ∧ (s.entry q).bind RobEntry.value = none := by
  unfold State.capture
  by_cases hr : r = 0
  · simp [hr]
  · cases hs : s.stat.get r with
    | none => simp [hr]
    | some p =>
      cases hv : (s.entry p).bind RobEntry.value with
      | none =>
        simp only [hr, if_false, hv, Operand.waits.injEq, Option.some.injEq]
        exact ⟨fun h => ⟨hr, h, h ▸ hv⟩, fun h => h.2.1⟩
      | some v =>
        simp only [hr, if_false, hv, Option.some.injEq]
        refine ⟨fun h => (by cases h), ?_⟩
        rintro ⟨_, rfl, h⟩
        rw [hv] at h
        cases h

/-! ## Issue -/

/-- Issue either leaves the state alone, for one of its three reasons, or allocates into the lowest free station. -/
theorem State.issue_cases (s : State) (q : IssueRequest) :
    (s.issue q = s ∧ (s.retInFlight = true ∨ s.robFull = true ∨ s.tryAcquire q.op = none)) ∨
      ∃ k, s.retInFlight = false ∧ s.robFull = false ∧ s.tryAcquire q.op = some k ∧
        s.issue q = s.allocate q k := by
  unfold State.issue
  cases hr : s.retInFlight with
  | true => simp
  | false =>
    cases hf : s.robFull with
    | true => simp
    | false =>
      cases ha : s.tryAcquire q.op with
      | none => simp
      | some k => exact .inr ⟨k, by simp⟩

theorem State.issue_of_accepts (s : State) (q : IssueRequest) {k : Nat} (h : Accepts s q.op k) :
    s.issue q = s.allocate q k := by
  have hf : s.robFull = false := by
    simpa [State.robFull, State.n] using h.notFull
  have ha : s.tryAcquire q.op = some k := (s.tryAcquire_eq_some q.op k).mpr ⟨h.free, h.lowest⟩
  simp [State.issue, h.noRet, hf, ha]

/-- What each instruction asks of Issue (R134, R183, R184). -/
def requestOf (s : State) : Instr → IssueRequest
  | .load rA rB imm =>
    { op := .load, dest := .register rA, j := s.capture rB, k := noSource, imm := imm, takenPC := 0,
      nextPC := s.pc + 1 }
  | .store rA rB imm =>
    { op := .store, dest := .memory none, j := s.capture rA, k := s.capture rB, imm := imm, takenPC := 0,
      nextPC := s.pc + 1 }
  | .beq rA rB target =>
    { op := .beq, dest := .none, j := s.capture rA, k := s.capture rB, imm := 0, takenPC := target,
      nextPC := s.pc + 1 }
  | .call target =>
    { op := .call, dest := .register 1, j := noSource, k := noSource, imm := 0, takenPC := target, nextPC := target }
  | .ret =>
    { op := .ret, dest := .none, j := s.capture 1, k := noSource, imm := 0, takenPC := 0, nextPC := s.pc + 1 }
  | .add rA rB rC =>
    { op := .add, dest := .register rA, j := s.capture rB, k := s.capture rC, imm := 0, takenPC := 0,
      nextPC := s.pc + 1 }
  | .addi rA rB imm =>
    { op := .addi, dest := .register rA, j := s.capture rB, k := .value imm, imm := imm, takenPC := 0,
      nextPC := s.pc + 1 }
  | .nand rA rB rC =>
    { op := .nand, dest := .register rA, j := s.capture rB, k := s.capture rC, imm := 0, takenPC := 0,
      nextPC := s.pc + 1 }
  | .mul rA rB rC =>
    { op := .mul, dest := .register rA, j := s.capture rB, k := s.capture rC, imm := 0, takenPC := 0,
      nextPC := s.pc + 1 }

/-- Every arm of `exec` is the shared Issue on the instruction's own request. -/
theorem exec_eq (i : Instr) (s : State) : exec i s = .next (s.issue (requestOf s i)) := by
  cases i <;> rfl

@[simp] theorem requestOf_op (s : State) (i : Instr) : (requestOf s i).op = i.opcode := by
  cases i <;> rfl

/-- Issue answers a next state for every instruction in every state. -/
theorem exec_next (i : Instr) (s : State) : ∃ t, exec i s = .next t := ⟨_, exec_eq i s⟩

/-- What an issue can do: nothing, or the allocation of the instruction's own request. -/
theorem exec_cases {i : Instr} {s t : State} (h : exec i s = .next t) :
    t = s ∨ ∃ k, s.tryAcquire i.opcode = some k ∧ s.retInFlight = false ∧ s.robFull = false ∧
      t = s.allocate (requestOf s i) k := by
  rw [exec_eq] at h
  cases h
  rcases s.issue_cases (requestOf s i) with ⟨h, _⟩ | ⟨k, h1, h2, h3, h4⟩
  · exact .inl h
  · exact .inr ⟨k, by simpa using h3, h1, h2, h4⟩

/-! ## Allocation -/

theorem State.entry_allocate (s : State) (q : IssueRequest) (k p : Nat) (h : s.tail < s.rob.length) :
    (s.allocate q k).entry p = if p = s.tail then some (s.newEntry q) else s.entry p := by
  have := s.entry_setEntry s.tail p (some (s.newEntry q))
  simpa [State.entry, h] using this

theorem State.station_allocate (s : State) (q : IssueRequest) (k : Nat) (c : Opcode) (l : Nat)
    (h : k < (s.rs.get q.op).length) :
    (s.allocate q k).station c l =
      if c = q.op ∧ l = k then some (s.newStation q) else s.station c l := by
  have := s.station_setStation q.op c k l (some (s.newStation q))
  simpa [State.station, h] using this

theorem State.renamed_get (s : State) (d : Dest) (r : Reg) :
    (s.renamed d).get r = if d = .register r ∧ r ≠ 0 then some s.tail else s.stat.get r := by
  cases d with
  | register r' =>
    simp only [State.renamed]
    by_cases h0 : r' = 0
    · subst h0
      by_cases hr : (0 : Reg) = r
      · subst hr
        simp
      · simp [hr]
    · by_cases hr : r' = r
      · subst hr
        simp [h0]
      · simp [h0, hr, show ¬ r = r' from fun e => hr e.symm]
  | memory a => simp [State.renamed]
  | none => simp [State.renamed]

end Sys2Proof.Machine
end

