-- ==== Sys2Proof/Laws/Memory.lean ====
section
/-! SUPPORT. The memory: every operation keeps the canonical form; a read after a write; equal reads are equal
memories. -/

namespace Sys2Proof.Machine

/-- Every address of the list is at least `b`. -/
theorem Memory.lookup_of_below (m : Memory) (a : Nat) (h : ∀ c ∈ m, a < c.1) :
    Memory.lookup m a = Memory.unlisted := by
  induction m with
  | nil => rfl
  | cons c rest ih =>
    have hc : a < c.1 := h c (by simp)
    simp only [Memory.lookup]
    rw [if_neg (by omega)]
    exact ih fun d hd => h d (by simp [hd])

theorem Memory.mem_insert {m : Memory} {a : Nat} {v : Word} {c : Nat × Word}
    (h : c ∈ Memory.insert m a v) : c ∈ m ∨ (c = (a, v) ∧ v ≠ Memory.unlisted) := by
  induction m with
  | nil =>
    simp only [Memory.insert] at h
    split at h
    · simp at h
    · next hv => exact .inr ⟨by simpa using h, hv⟩
  | cons d rest ih =>
    obtain ⟨b, w⟩ := d
    simp only [Memory.insert] at h
    split_ifs at h with h1 h2 h3 h4
    · exact .inl h
    · rcases List.mem_cons.mp h with h | h
      · exact .inr ⟨h, h2⟩
      · exact .inl h
    · exact .inl (by simp [h])
    · rcases List.mem_cons.mp h with h | h
      · exact .inr ⟨h, h4⟩
      · exact .inl (by simp [h])
    · rcases List.mem_cons.mp h with h | h
      · exact .inl (by simp [h])
      · rcases ih h with h | h
        · exact .inl (by simp [h])
        · exact .inr h

theorem Memory.insert_wf {m : Memory} (h : Memory.wf m) (a : Nat) (ha : a < 2 ^ 16) (v : Word) :
    Memory.wf (Memory.insert m a v) := by
  refine ⟨?_, ?_⟩
  · have hs := h.1
    clear h
    induction m with
    | nil =>
      simp only [Memory.insert]
      split <;> simp
    | cons d rest ih =>
      obtain ⟨b, w⟩ := d
      simp only [Memory.insert]
      have hd := List.pairwise_cons.mp hs
      split_ifs with h1 h2 h3 h4
      · exact hs
      · refine List.pairwise_cons.mpr ⟨?_, hs⟩
        intro c hc
        rcases List.mem_cons.mp hc with rfl | hc
        · exact h1
        · exact lt_trans h1 (hd.1 c hc)
      · exact hd.2
      · exact List.pairwise_cons.mpr ⟨fun c hc => h3 ▸ hd.1 c hc, hd.2⟩
      · refine List.pairwise_cons.mpr ⟨?_, ih hd.2⟩
        intro c hc
        rcases Memory.mem_insert hc with hc | ⟨rfl, _⟩
        · exact hd.1 c hc
        · show b < a
          omega
  · intro c hc
    rcases Memory.mem_insert hc with hc | ⟨rfl, hv⟩
    · exact h.2 c hc
    · exact ⟨ha, hv⟩

theorem Memory.lookup_insert {m : Memory} (h : List.Pairwise (fun c d : Nat × Word => c.1 < d.1) m)
    (a b : Nat) (v : Word) :
    Memory.lookup (Memory.insert m a v) b = if b = a then v else Memory.lookup m b := by
  induction m with
  | nil =>
    simp only [Memory.insert]
    split
    · next hv => simp [Memory.lookup, hv]
    · simp [Memory.lookup]
  | cons d rest ih =>
    obtain ⟨e, w⟩ := d
    have hd := List.pairwise_cons.mp h
    simp only [Memory.insert]
    by_cases hae : a < e
    · rw [if_pos hae]
      have hbelow : Memory.lookup ((e, w) :: rest) a = Memory.unlisted :=
        Memory.lookup_of_below _ a fun c hc => by
          rcases List.mem_cons.mp hc with rfl | hc
          · exact hae
          · exact lt_trans hae (hd.1 c hc)
      by_cases hv : v = Memory.unlisted
      · rw [if_pos hv]
        by_cases hb : b = a
        · rw [if_pos hb, hb, hbelow, hv]
        · rw [if_neg hb]
      · rw [if_neg hv, Memory.lookup]
    · rw [if_neg hae]
      by_cases hea : a = e
      · rw [if_pos hea]
        subst hea
        by_cases hv : v = Memory.unlisted
        · rw [if_pos hv]
          by_cases hb : b = a
          · rw [if_pos hb, hb, hv]
            exact Memory.lookup_of_below rest a hd.1
          · rw [if_neg hb, Memory.lookup, if_neg hb]
        · rw [if_neg hv]
          by_cases hb : b = a
          · simp [Memory.lookup, hb]
          · simp [Memory.lookup, hb]
      · rw [if_neg hea]
        by_cases hbe : b = e
        · have hba : b ≠ a := by omega
          simp [Memory.lookup, hbe, show e ≠ a from fun he => hea he.symm]
        · simp only [Memory.lookup, if_neg hbe]
          exact ih hd.2

/-- A read after a write to the same address gives the value written (R61). -/
theorem Memory.read_write_same {m : Memory} (h : Memory.wf m) (a v : Word) :
    Memory.read (Memory.write m a v) a = v := by
  rw [Memory.read, Memory.write, Memory.lookup_insert h.1, if_pos rfl]

/-- A write changes no other address (R61). -/
theorem Memory.read_write_other {m : Memory} (h : Memory.wf m) (a b v : Word) (hab : b ≠ a) :
    Memory.read (Memory.write m a v) b = Memory.read m b := by
  rw [Memory.read, Memory.write, Memory.lookup_insert h.1, if_neg (fun he => hab (BitVec.eq_of_toNat_eq he))]
  rfl

/-- A write keeps the canonical form. -/
theorem Memory.write_wf {m : Memory} (h : Memory.wf m) (a v : Word) : Memory.wf (Memory.write m a v) :=
  Memory.insert_wf h a.toNat a.isLt v

theorem Memory.nil_wf : Memory.wf [] := ⟨List.Pairwise.nil, fun _ h => absurd h List.not_mem_nil⟩

/-- The memory image is in canonical form. -/
theorem Memory.ofImage_wf (image : List (Word × Word)) : Memory.wf (Memory.ofImage image) := by
  have key : ∀ (l : List (Word × Word)) (m : Memory), Memory.wf m →
      Memory.wf (l.foldl (fun m p => Memory.write m p.1 p.2) m) := by
    intro l
    induction l with
    | nil => exact fun m h => h
    | cons p rest ih => exact fun m h => ih _ (Memory.write_wf h p.1 p.2)
  exact key image [] Memory.nil_wf

/-- An address whose value is in the list reads as that value. -/
theorem Memory.lookup_of_mem {m : Memory} (h : List.Pairwise (fun c d : Nat × Word => c.1 < d.1) m)
    {a : Nat} {v : Word} (hm : (a, v) ∈ m) : Memory.lookup m a = v := by
  induction m with
  | nil => simp at hm
  | cons d rest ih =>
    obtain ⟨e, w⟩ := d
    have hd := List.pairwise_cons.mp h
    rcases List.mem_cons.mp hm with he | hm
    · cases he
      simp [Memory.lookup]
    · have : e < a := hd.1 _ hm
      rw [Memory.lookup, if_neg (by omega)]
      exact ih hd.2 hm

theorem Memory.mem_of_lookup {m : Memory} {a : Nat} (h : Memory.lookup m a ≠ Memory.unlisted) :
    (a, Memory.lookup m a) ∈ m := by
  induction m with
  | nil => exact absurd rfl h
  | cons d rest ih =>
    obtain ⟨e, w⟩ := d
    by_cases hae : a = e
    · subst hae
      simp [Memory.lookup]
    · simp only [Memory.lookup, if_neg hae] at h ⊢
      exact List.mem_cons_of_mem _ (ih h)

/-- Two memories in canonical form that read alike everywhere are the same list. -/
theorem Memory.ext_read {m n : Memory} (hm : Memory.wf m) (hn : Memory.wf n)
    (h : ∀ a, Memory.read m a = Memory.read n a) : m = n := by
  have hl : ∀ a, a < 2 ^ 16 → Memory.lookup m a = Memory.lookup n a := by
    intro a ha
    have := h (BitVec.ofNat 16 a)
    rwa [Memory.read, Memory.read, BitVec.toNat_ofNat, Nat.mod_eq_of_lt ha] at this
  have sub : ∀ {u w : Memory}, Memory.wf u → Memory.wf w →
      (∀ a, a < 2 ^ 16 → Memory.lookup u a = Memory.lookup w a) → u ⊆ w := by
    intro u w hu hw huw c hc
    obtain ⟨a, v⟩ := c
    have hcv := hu.2 _ hc
    have hv : Memory.lookup u a = v := Memory.lookup_of_mem hu.1 hc
    have hw' := huw a hcv.1
    rw [hv] at hw'
    have := Memory.mem_of_lookup (m := w) (a := a) (by rw [← hw']; exact hcv.2)
    rwa [← hw'] at this
  have nodup : ∀ {u : Memory}, Memory.wf u → u.Nodup := fun hu =>
    hu.1.imp fun hlt heq => by rw [heq] at hlt; exact lt_irrefl _ hlt
  have hperm : m.Perm n := (List.perm_ext_iff_of_nodup (nodup hm) (nodup hn)).mpr fun c =>
    ⟨fun hc => sub hm hn hl hc, fun hc => sub hn hm (fun a ha => (hl a ha).symm) hc⟩
  exact hperm.eq_of_pairwise (fun c d _ _ h1 h2 => absurd (lt_trans h1 h2) (lt_irrefl _)) hm.1 hn.1

end Sys2Proof.Machine
end

