-- ==== Sys2Proof/Laws/PerInstr.lean ====
section
/-! SUPPORT. A statement for every instruction, one lemma per constructor of Instr: the encoder writes a legal word, with the
opcode number the table gives the instruction (30_encoding.md R82, R88). -/

namespace Sys2Proof.Laws.EncodesLegally

/-- The opcode number of R82. -/
def opcodeNumber : Opcode → Nat
  | .load => 0
  | .store => 1
  | .beq => 2
  | .call => 3
  | .ret => 4
  | .add => 5
  | .addi => 6
  | .nand => 7
  | .mul => 8

/-- The word of the instruction has the instruction's opcode number and a zero reserved field. -/
def Statement (i : Instr) : Prop := diwOpcode (encode i) = opcodeNumber i.opcode ∧ diwRsv (encode i) = 0

theorem load (rA rB : Reg) (imm : Word) : Statement (.load rA rB imm) :=
  ⟨diwOpcode_diwOf 0 (by decide) _ _ _ _ _, diwRsv_diwOf 0 (by decide) _ _ _ _ _⟩

theorem store (rA rB : Reg) (imm : Word) : Statement (.store rA rB imm) :=
  ⟨diwOpcode_diwOf 1 (by decide) _ _ _ _ _, diwRsv_diwOf 1 (by decide) _ _ _ _ _⟩

theorem beq (rA rB : Reg) (target : Word) : Statement (.beq rA rB target) :=
  ⟨diwOpcode_diwOf 2 (by decide) _ _ _ _ _, diwRsv_diwOf 2 (by decide) _ _ _ _ _⟩

theorem call (target : Word) : Statement (.call target) :=
  ⟨diwOpcode_diwOf 3 (by decide) _ _ _ _ _, diwRsv_diwOf 3 (by decide) _ _ _ _ _⟩

theorem ret : Statement .ret :=
  ⟨diwOpcode_diwOf 4 (by decide) _ _ _ _ _, diwRsv_diwOf 4 (by decide) _ _ _ _ _⟩

theorem add (rA rB rC : Reg) : Statement (.add rA rB rC) :=
  ⟨diwOpcode_diwOf 5 (by decide) _ _ _ _ _, diwRsv_diwOf 5 (by decide) _ _ _ _ _⟩

theorem addi (rA rB : Reg) (imm : Word) : Statement (.addi rA rB imm) :=
  ⟨diwOpcode_diwOf 6 (by decide) _ _ _ _ _, diwRsv_diwOf 6 (by decide) _ _ _ _ _⟩

theorem nand (rA rB rC : Reg) : Statement (.nand rA rB rC) :=
  ⟨diwOpcode_diwOf 7 (by decide) _ _ _ _ _, diwRsv_diwOf 7 (by decide) _ _ _ _ _⟩

theorem mul (rA rB rC : Reg) : Statement (.mul rA rB rC) :=
  ⟨diwOpcode_diwOf 8 (by decide) _ _ _ _ _, diwRsv_diwOf 8 (by decide) _ _ _ _ _⟩

end Sys2Proof.Laws.EncodesLegally
end

