-- ==== Sys2Proof/Laws/Sequential.lean ====
section
/-! SUPPORT. Laws of the sequential machine and of the predicted path: what one instruction does to registers, memory and
`pc`, how the path composes, and that Execute's result table is the instruction's value and address. -/

namespace Sys2Proof.Machine

@[simp] theorem Arch.predicted_x (a : Arch) (i : Instr) : (a.predicted i).x = (a.effect i).x := rfl

@[simp] theorem Arch.predicted_mem (a : Arch) (i : Instr) : (a.predicted i).mem = (a.effect i).mem := rfl

@[simp] theorem Arch.predicted_pc (a : Arch) (i : Instr) : (a.predicted i).pc = Instr.fetchedNext i a.pc := rfl

/-- The prediction is the effect, but for a taken `BEQ` and for a `RET`. -/
theorem Arch.predicted_eq_effect (a : Arch) (i : Instr) (hr : i.opcode ≠ .ret)
    (hb : i.opcode = .beq → a.value i = 0) : a.predicted i = a.effect i := by
  cases i <;> simp_all [Arch.predicted, Arch.effect, Arch.put, Instr.fetchedNext, Instr.opcode, Arch.value]

@[simp] theorem Arch.follow_zero (c : Config) (a : Arch) : Arch.follow c 0 a = a := rfl

theorem Arch.follow_succ (c : Config) (n : Nat) (a : Arch) {i : Instr}
    (h : c.instrAt (Arch.follow c n a).pc.toNat = some i) :
    Arch.follow c (n + 1) a = (Arch.follow c n a).predicted i := by
  simp [Arch.follow, h]

/-- The path of `m + n` instructions is the path of `m` from where the path of `n` ends. -/
theorem Arch.follow_add (c : Config) (m n : Nat) (a : Arch) :
    Arch.follow c (m + n) a = Arch.follow c m (Arch.follow c n a) := by
  induction m with
  | zero => simp
  | succ m ih => rw [Nat.succ_add, Arch.follow, ih, Arch.follow]

/-- Only a store changes the memory, and it writes its value at its address. -/
theorem Arch.effect_mem (a : Arch) (i : Instr) :
    (a.effect i).mem =
      match i with
      | .store rA rB imm => Memory.write a.mem (a.reg rB + imm) (a.reg rA)
      | _ => a.mem := by
  cases i <;> rfl

/-- Execute's result is the instruction's value and address, on a station that holds the instruction's sources. -/
theorem Station.evaluate_eq (st : Station) (a : Arch) (i : Instr) (hop : st.op = i.opcode) (hidx : st.idx = a.pc)
    (himm : ∀ ea, a.address i = some ea →
      ea = (if st.op = .store then (a.sources i).2 else (a.sources i).1) + st.imm) :
    st.evaluate (a.sources i).1 (a.sources i).2 a.mem = ⟨a.value i, a.address i⟩ := by
  cases i <;>
    simp_all [Station.evaluate, Instr.opcode, Arch.sources, Arch.value, Arch.address, resultLoad, resultStore,
      resultBeq, resultCall, resultRet, resultAdd, resultAddi, resultNand, resultMul, effectiveAddress, equalWord,
      ← BitVec.xor_allOnes]
  rfl

end Sys2Proof.Machine
end

