-- ==== Sys2Proof/Laws/Stages.lean ====
section
/-! SUPPORT. The stages of the tick: for each, once, what it can do and what it leaves alone (45_pipeline_driver.md R186 to
R195, 46_rollback.md R211). -/

namespace Sys2Proof.Machine

/-! ## Squash (R211) -/

/-- A property of states that squashing one id keeps is kept by squashing a list of them. -/
theorem State.foldl_squashOne_keeps {P : State → Prop} (h : ∀ s q, P s → P (s.squashOne q)) (l : List Nat)
    (s : State) (hs : P s) : P (l.foldl State.squashOne s) := by
  induction l generalizing s with
  | nil => exact hs
  | cons q rest ih => exact ih _ (h s q hs)

/-- What a squash leaves alone. -/
theorem State.squashYoungerThan_frame (s : State) (h : Nat) :
    let t := s.squashYoungerThan h
    t.cfg = s.cfg ∧ t.x = s.x ∧ t.mem = s.mem ∧ t.pc = s.pc ∧ t.head = s.head ∧ t.cdb = s.cdb ∧
      t.cycle = s.cycle ∧ t.retired = s.retired ∧ t.branches = s.branches ∧ t.mispred = s.mispred ∧
      t.nseq = s.nseq ∧ t.status = s.status ∧ t.run = s.run ∧ t.trace = s.trace := by
  refine State.foldl_squashOne_keeps
    (P := fun t : State => t.cfg = s.cfg ∧ t.x = s.x ∧ t.mem = s.mem ∧ t.pc = s.pc ∧ t.head = s.head ∧
      t.cdb = s.cdb ∧ t.cycle = s.cycle ∧ t.retired = s.retired ∧ t.branches = s.branches ∧
      t.mispred = s.mispred ∧ t.nseq = s.nseq ∧ t.status = s.status ∧ t.run = s.run ∧ t.trace = s.trace)
    ?_ _ s ?_
  · intro t q ht
    simpa using ht
  · simp

@[simp] theorem State.squashYoungerThan_tail (s : State) (h : Nat) :
    (s.squashYoungerThan h).tail = (h + 1) % s.n := rfl

/-- One squashed id: its slot is emptied and every other slot kept. -/
theorem State.entry_squashOne (s : State) (q p : Nat) :
    (s.squashOne q).entry p = if p = q then none else s.entry p := by
  have hrob : ∀ t : State, t.rob = s.rob →
      ((t.mapStations fun st => st.filter fun u => u.rob != q).setEntry q none).entry p =
        if p = q then none else s.entry p := by
    intro t ht
    rw [State.entry_setEntry]
    by_cases hp : p = q
    · subst hp
      by_cases hl : p < s.rob.length
      · simp [ht, hl]
      · simp [ht, hl, State.entry, List.getD_eq_getElem?_getD]
    · simp [hp, State.entry, ht]
  unfold State.squashOne
  apply hrob
  split
  · split <;> rfl
  · rfl

/-- One squashed id: every station whose backlink is that id is released, every other kept. -/
theorem State.station_squashOne (s : State) (q : Nat) (c : Opcode) (k : Nat) :
    (s.squashOne q).station c k = (s.station c k).filter fun st => st.rob != q := by
  have hrs : ∀ t : State, t.rs = s.rs →
      ((t.mapStations fun st => st.filter fun u => u.rob != q).setEntry q none).station c k =
        (s.station c k).filter fun st => st.rob != q := by
    intro t ht
    have h1 := State.station_congr (s := t.mapStations fun st => st.filter fun u => u.rob != q)
      (t := (t.mapStations fun st => st.filter fun u => u.rob != q).setEntry q none) rfl c k
    rw [h1, State.station_mapStations _ _ rfl, State.station_congr ht]
  unfold State.squashOne
  apply hrs
  split
  · split <;> rfl
  · rfl

/-! ## Commit (R195) -/

/-- Commit retires the head when it is ready and otherwise does nothing. -/
theorem State.commit_cases (s : State) :
    (s.readyHead = none ∧ s.commit = s) ∨ ∃ e, s.readyHead = some e ∧ s.commit = s.retire e := by
  unfold State.commit
  cases h : s.readyHead with
  | none => exact .inl ⟨rfl, rfl⟩
  | some e => exact .inr ⟨e, rfl, rfl⟩

/-- No side effect touches these; only a `BEQ` touches the pool, the slots and the counters. -/
theorem State.sideEffect_frame (s : State) (e : RobEntry) :
    let t := s.sideEffect e
    t.cfg = s.cfg ∧ t.head = s.head ∧ t.cdb = s.cdb ∧ t.cycle = s.cycle ∧ t.retired = s.retired ∧
      t.nseq = s.nseq ∧ t.status = s.status ∧ t.run = s.run ∧ t.trace = s.trace ∧
      (e.op ≠ .beq → t.rs = s.rs ∧ t.rob = s.rob ∧ t.tail = s.tail ∧ t.stat = s.stat ∧
        t.branches = s.branches ∧ t.mispred = s.mispred) := by
  obtain ⟨ph, op, idx, seq, dest, value, spec, outcome⟩ := e
  cases op <;> simp only [State.sideEffect, retireLoad, retireStore, retireCall, retireAdd, retireAddi, retireNand,
    retireMul, retireRet, retireBeq]
  case beq =>
    split
    · unfold State.mispredict
      have hf := State.squashYoungerThan_frame
        { { s with branches := s.branches + 1 } with mispred := s.mispred + 1 } s.head
      simp only at hf
      split <;> simp [hf]
    · simp
  case ret => split <;> simp
  all_goals simp

/-- What retiring the head leaves alone, whatever its opcode. -/
theorem State.retire_frame (s : State) (e : RobEntry) :
    let t := s.retire e
    t.cfg = s.cfg ∧ t.cdb = s.cdb ∧ t.cycle = s.cycle ∧ t.nseq = s.nseq ∧ t.status = s.status ∧ t.run = s.run ∧
      t.retired = s.retired + 1 ∧ t.head = (s.head + 1) % s.n := by
  have h := State.sideEffect_frame (s.modifyEntry s.head fun e => { e with phase := .committed }) e
  simp only at h
  obtain ⟨h1, h2, h3, h4, h5, h6, h7, h8, h9, _⟩ := h
  simp [State.retire, State.n, h1, h2, h3, h4, h5, h6, h7, h8]

/-! ## Write, arbitration half (R191) -/

/-- Arbitration does nothing, or puts a candidate on the bus, stamps it and releases its station. -/
theorem State.writeArbitrate_cases (s : State) :
    (s.oldestCandidate = none ∧ s.writeArbitrate = s) ∨
      ∃ c, s.oldestCandidate = some c ∧
        s.writeArbitrate =
          (({ s with cdb := some { p := c.rob, v := c.result.value, a := c.result.addr } } : State).stampEntry
            c.rob .written).release c.cls c.num := by
  unfold State.writeArbitrate
  cases h : s.oldestCandidate with
  | none => exact .inl ⟨rfl, rfl⟩
  | some c => exact .inr ⟨c, rfl, rfl⟩

/-- The candidates are the result-ready stations (R136). -/
theorem State.mem_candidates (s : State) (c : Candidate) :
    c ∈ s.candidates ↔
      ∃ st, s.station c.cls c.num = some st ∧ st.result = some c.result ∧ st.rob = c.rob := by
  simp only [State.candidates, List.mem_filterMap]
  constructor
  · rintro ⟨⟨d, k⟩, _, h⟩
    simp only [State.candidateAt] at h
    split at h
    · next st hs =>
      obtain ⟨r, hr, rfl⟩ := Option.map_eq_some_iff.mp h
      exact ⟨st, hs, hr, rfl⟩
    · cases h
  · rintro ⟨st, hs, hr, hb⟩
    refine ⟨(c.cls, c.num), (s.mem_stationIds _ _).mpr (s.station_lt hs), ?_⟩
    simp [State.candidateAt, hs, hr, hb]

/-- The choice of the oldest: a member of the list whose age no member is below. -/
theorem foldl_pickOlder_spec (age : Candidate → Nat) (l : List Candidate) (b : Candidate) :
    ∃ c, l.foldl (pickOlder age) (some b) = some c ∧ (c = b ∨ c ∈ l) ∧ age c ≤ age b ∧
      ∀ d ∈ l, age c ≤ age d := by
  induction l generalizing b with
  | nil => exact ⟨b, rfl, .inl rfl, le_refl _, fun d hd => absurd hd List.not_mem_nil⟩
  | cons d rest ih =>
    simp only [List.foldl_cons, pickOlder]
    by_cases h : age d < age b
    · rw [if_pos h]
      obtain ⟨c, h1, h2, h3, h4⟩ := ih d
      refine ⟨c, h1, ?_, by omega, ?_⟩
      · rcases h2 with rfl | h2
        · simp
        · simp [h2]
      · intro x hx
        rcases List.mem_cons.mp hx with rfl | hx
        · exact h3
        · exact h4 x hx
    · rw [if_neg h]
      obtain ⟨c, h1, h2, h3, h4⟩ := ih b
      refine ⟨c, h1, ?_, h3, ?_⟩
      · rcases h2 with rfl | h2
        · simp
        · simp [h2]
      · intro x hx
        rcases List.mem_cons.mp hx with rfl | hx
        · omega
        · exact h4 x hx

/-- The bus goes to a candidate, where there is one, and no candidate is older (R191, R192). -/
theorem State.oldestCandidate_spec (s : State) :
    (s.oldestCandidate = none ↔ s.candidates = []) ∧
      ∀ c, s.oldestCandidate = some c → c ∈ s.candidates ∧ ∀ d ∈ s.candidates, s.age c.rob ≤ s.age d.rob := by
  unfold State.oldestCandidate
  cases hc : s.candidates with
  | nil => simp
  | cons b rest =>
    obtain ⟨c, h1, h2, h3, h4⟩ := foldl_pickOlder_spec (fun c => s.age c.rob) rest b
    simp only [List.foldl_cons, show pickOlder (fun c => s.age c.rob) none b = some b from rfl]
    refine ⟨by simp [h1], ?_⟩
    intro c' hc'
    rw [h1] at hc'
    cases hc'
    refine ⟨?_, ?_⟩
    · rcases h2 with rfl | h2
      · simp
      · simp [h2]
    · intro d hd
      rcases List.mem_cons.mp hd with rfl | hd
      · exact h3
      · exact h4 d hd

theorem State.writeArbitrate_frame (s : State) :
    let t := s.writeArbitrate
    t.cfg = s.cfg ∧ t.x = s.x ∧ t.mem = s.mem ∧ t.pc = s.pc ∧ t.rob = s.rob ∧ t.head = s.head ∧ t.tail = s.tail ∧
      t.stat = s.stat ∧ t.cycle = s.cycle ∧ t.retired = s.retired ∧ t.branches = s.branches ∧
      t.mispred = s.mispred ∧ t.nseq = s.nseq ∧ t.status = s.status ∧ t.run = s.run := by
  rcases s.writeArbitrate_cases with ⟨_, h⟩ | ⟨c, _, h⟩ <;> rw [h] <;> simp

/-! ## Execute (R186) -/

/-- A visit does nothing, or counts down a begun station, or begins a station and counts it down. -/
theorem State.visit_cases (s : State) (c : Opcode) (k : Nat) :
    s.visit (c, k) = s ∨
      ∃ st vj vk, s.station c k = some st ∧ st.j = .value vj ∧ st.k = .value vk ∧ st.left ≠ 0 ∧
        ((st.started = true ∧ s.visit (c, k) = s.countDown c k st vj vk) ∨
          (st.started = false ∧ s.heldBack st vj = false ∧
            s.visit (c, k) = (s.beginExecution st).countDown c k st vj vk)) := by
  unfold State.visit
  cases hs : s.station c k with
  | none => exact .inl rfl
  | some st =>
    simp only
    split
    · next vj vk hj hk =>
      by_cases hl : st.left = 0
      · simp [hl]
      · simp only [hl, if_false, State.visitReady]
        cases hst : st.started with
        | true => exact .inr ⟨st, vj, vk, rfl, hj, hk, hl, .inl ⟨hst, by simp⟩⟩
        | false =>
          cases hb : s.heldBack st vj with
          | true => simp
          | false => exact .inr ⟨st, vj, vk, rfl, hj, hk, hl, .inr ⟨hst, hb, by simp⟩⟩
    · exact .inl rfl

theorem State.countDown_frame (s : State) (c : Opcode) (k : Nat) (st : Station) (vj vk : Word) :
    let t := s.countDown c k st vj vk
    t.cfg = s.cfg ∧ t.x = s.x ∧ t.mem = s.mem ∧ t.pc = s.pc ∧ t.rob = s.rob ∧ t.head = s.head ∧ t.tail = s.tail ∧
      t.stat = s.stat ∧ t.cdb = s.cdb ∧ t.cycle = s.cycle ∧ t.retired = s.retired ∧ t.branches = s.branches ∧
      t.mispred = s.mispred ∧ t.nseq = s.nseq ∧ t.status = s.status ∧ t.run = s.run := by
  unfold State.countDown
  split <;> simp

/-- A visit writes only the pool, the slots and the trace (R186). -/
theorem State.visit_frame (s : State) (id : Opcode × Nat) :
    let t := s.visit id
    t.cfg = s.cfg ∧ t.x = s.x ∧ t.mem = s.mem ∧ t.pc = s.pc ∧ t.head = s.head ∧ t.tail = s.tail ∧
      t.stat = s.stat ∧ t.cdb = s.cdb ∧ t.cycle = s.cycle ∧ t.retired = s.retired ∧ t.branches = s.branches ∧
      t.mispred = s.mispred ∧ t.nseq = s.nseq ∧ t.status = s.status ∧ t.run = s.run := by
  obtain ⟨c, k⟩ := id
  rcases s.visit_cases c k with h | ⟨st, vj, vk, _, _, _, _, ⟨_, h⟩ | ⟨_, _, h⟩⟩
  · rw [h]
    simp
  · rw [h]
    have hf := s.countDown_frame c k st vj vk
    simp only at hf ⊢
    simp [hf]
  · rw [h]
    have hf := (s.beginExecution st).countDown_frame c k st vj vk
    simp only at hf ⊢
    simp [hf]

/-- A property that every visit keeps is kept by Execute. -/
theorem State.execute_keeps {P : State → Prop} (h : ∀ s id, P s → P (s.visit id)) (s : State) (hs : P s) :
    P s.execute := by
  have key : ∀ (l : List (Opcode × Nat)) (t : State), P t → P (l.foldl State.visit t) := by
    intro l
    induction l with
    | nil => exact fun t ht => ht
    | cons id rest ih => exact fun t ht => ih _ (h t id ht)
  exact key _ s hs

/-- Execute writes only the pool, the slots and the trace (R186). -/
theorem State.execute_frame (s : State) :
    let t := s.execute
    t.cfg = s.cfg ∧ t.x = s.x ∧ t.mem = s.mem ∧ t.pc = s.pc ∧ t.head = s.head ∧ t.tail = s.tail ∧
      t.stat = s.stat ∧ t.cdb = s.cdb ∧ t.cycle = s.cycle ∧ t.retired = s.retired ∧ t.branches = s.branches ∧
      t.mispred = s.mispred ∧ t.nseq = s.nseq ∧ t.status = s.status ∧ t.run = s.run := by
  refine State.execute_keeps
    (P := fun t : State => t.cfg = s.cfg ∧ t.x = s.x ∧ t.mem = s.mem ∧ t.pc = s.pc ∧ t.head = s.head ∧
      t.tail = s.tail ∧ t.stat = s.stat ∧ t.cdb = s.cdb ∧ t.cycle = s.cycle ∧ t.retired = s.retired ∧
      t.branches = s.branches ∧ t.mispred = s.mispred ∧ t.nseq = s.nseq ∧ t.status = s.status ∧ t.run = s.run)
    ?_ s (by simp)
  intro t id ht
  have hf := t.visit_frame id
  simp only at hf
  simpa [hf] using ht

/-! ## Write, delivery half (R193) -/

/-- Delivery does nothing, or delivers the message to its entry and to every station, and empties the latch. -/
theorem State.writeDeliver_cases (s : State) :
    (s.cdb = none ∧ s.writeDeliver = s) ∨
      ∃ m, s.cdb = some m ∧
        s.writeDeliver =
          { (s.modifyEntry m.p fun e => RobEntry.deliver e m).mapStations
              (fun st => st.map fun t => Station.snoop t m.p m.v) with cdb := none } := by
  unfold State.writeDeliver
  cases h : s.cdb with
  | none => exact .inl ⟨rfl, rfl⟩
  | some m => exact .inr ⟨m, rfl, rfl⟩

theorem State.writeDeliver_frame (s : State) :
    let t := s.writeDeliver
    t.cfg = s.cfg ∧ t.x = s.x ∧ t.mem = s.mem ∧ t.pc = s.pc ∧ t.head = s.head ∧ t.tail = s.tail ∧
      t.stat = s.stat ∧ t.cycle = s.cycle ∧ t.retired = s.retired ∧ t.branches = s.branches ∧
      t.mispred = s.mispred ∧ t.nseq = s.nseq ∧ t.status = s.status ∧ t.run = s.run ∧ t.trace = s.trace ∧
      t.cdb = none := by
  rcases s.writeDeliver_cases with ⟨h0, h⟩ | ⟨m, _, h⟩
  · rw [h]
    simp [h0]
  · rw [h]
    simp

/-- The slots after a delivery. -/
theorem State.entry_writeDeliver (s : State) {m : CdbMsg} (h : s.cdb = some m) (p : Nat) :
    s.writeDeliver.entry p =
      if p = m.p then (s.entry p).map fun e => RobEntry.deliver e m else s.entry p := by
  rcases s.writeDeliver_cases with ⟨h0, _⟩ | ⟨m', h0, hd⟩
  · simp [h0] at h
  · rw [h] at h0
    cases h0
    rw [hd]
    exact s.entry_modifyEntry m.p p _

/-- The stations after a delivery: every busy one has snooped the message. -/
theorem State.station_writeDeliver (s : State) {m : CdbMsg} (h : s.cdb = some m) (c : Opcode) (k : Nat) :
    s.writeDeliver.station c k = (s.station c k).map fun t => Station.snoop t m.p m.v := by
  rcases s.writeDeliver_cases with ⟨h0, _⟩ | ⟨m', h0, hd⟩
  · simp [h0] at h
  · rw [h] at h0
    cases h0
    rw [hd]
    exact State.station_mapStations (s.modifyEntry m.p _) (fun st => st.map fun t => Station.snoop t m.p m.v) rfl c k

/-! ## The end of a run (R229, R230) -/

theorem State.done_iff (s : State) :
    s.done = true ↔ s.cfg.progLen ≤ s.pc ∧ (∀ c k, s.station c k = none) ∧ s.head = s.tail := by
  simp [State.done, State.allIdle_iff, State.robEmpty_iff, and_assoc]

theorem State.runControl_cases (s : State) :
    (s.done = true ∧ s.runControl = s.stop .doneOk) ∨
      (s.done = false ∧ s.cfg.budget ≤ s.cycle ∧ s.runControl = s.stop .budgetExceeded) ∨
      (s.done = false ∧ s.cycle < s.cfg.budget ∧ s.runControl = s) := by
  unfold State.runControl
  cases hd : s.done with
  | true => simp
  | false =>
    by_cases hb : s.cfg.budget ≤ s.cycle
    · simp [hb]
    · simp [hb, Nat.lt_of_not_le hb]

end Sys2Proof.Machine
end

