-- ==== Sys2Proof/Laws/Step.lean ====
section
/-! SUPPORT. What one step can do, once, and runs of steps. -/

namespace Sys2Proof.Machine

/-- The part of the tick before Issue keeps the configuration, the run bit, the status and `nseq`, and counts the
cycle. -/
theorem State.beforeIssue_frame (s : State) :
    let t := s.beforeIssue
    t.cfg = s.cfg ∧ t.cycle = s.cycle + 1 ∧ t.nseq = s.nseq ∧ t.status = s.status ∧ t.run = s.run := by
  have h1 := State.execute_frame (State.writeArbitrate (State.commit { s with cycle := s.cycle + 1 }))
  have h2 := State.writeArbitrate_frame (State.commit { s with cycle := s.cycle + 1 })
  simp only at h1 h2
  rcases State.commit_cases { s with cycle := s.cycle + 1 } with ⟨_, hc⟩ | ⟨e, _, hc⟩
  · rw [hc] at h1 h2
    simp only [State.beforeIssue, hc]
    simp [h1, h2]
  · have h3 := State.retire_frame { s with cycle := s.cycle + 1 } e
    simp only at h3
    rw [hc] at h1 h2
    simp only [State.beforeIssue, hc]
    simp [h1, h2, h3]

/-- What Issue in the tick can answer. -/
theorem State.fetchIssue_cases (s : State) :
    (s.cfg.progLen ≤ s.pc ∧ s.fetchIssue = .next s) ∨
      (s.pc < s.cfg.progLen ∧ s.cfg.instrAt s.pc.toNat = none ∧ s.fetchIssue = .fault .illegalWord) ∨
      ∃ i, s.pc < s.cfg.progLen ∧ s.cfg.instrAt s.pc.toNat = some i ∧ s.fetchIssue = exec i s := by
  unfold State.fetchIssue
  by_cases h : s.pc < s.cfg.progLen
  · rw [if_pos h]
    cases hi : s.cfg.instrAt s.pc.toNat with
    | none => exact .inr (.inl ⟨h, rfl, rfl⟩)
    | some i => exact .inr (.inr ⟨i, h, rfl, rfl⟩)
  · rw [if_neg h]
    exact .inl ⟨BitVec.not_lt.mp h, rfl⟩

@[simp] theorem finishTick_next (s : State) : finishTick (.next s) = .next s.afterIssue := rfl

@[simp] theorem finishTick_fault (r : Fault) : finishTick (.fault r) = .fault r := rfl

theorem step_stopped {s : State} (h : s.run = false) : step s = .next s := by simp [step, h]

theorem step_violation {s : State} (h : s.run = true) (hi : ¬ Inv s) : step s = .fault .invariantViolation := by
  have : s.invariantsHold = false := by
    rw [← Bool.not_eq_true, invariantsHold_iff]
    exact hi
  simp [step, h, this]

theorem step_running {s : State} (h : s.run = true) (hi : Inv s) :
    step s = finishTick s.beforeIssue.fetchIssue := by
  simp [step, h, (invariantsHold_iff s).mpr hi]

/-- Everything a step that gives a next state can have done: the engine was stopped, or it ran a tick in which Issue
found `pc` past the program, or a tick in which Issue handled the instruction at `pc`. -/
theorem step_cases {s t : State} (h : step s = .next t) :
    (s.run = false ∧ t = s) ∨
      (s.run = true ∧ Inv s ∧
        ((s.beforeIssue.cfg.progLen ≤ s.beforeIssue.pc ∧ t = s.beforeIssue.afterIssue) ∨
          ∃ i, s.beforeIssue.pc < s.beforeIssue.cfg.progLen ∧
            s.beforeIssue.cfg.instrAt s.beforeIssue.pc.toNat = some i ∧
            t = (s.beforeIssue.issue (requestOf s.beforeIssue i)).afterIssue)) := by
  cases hr : s.run with
  | false =>
    rw [step_stopped hr] at h
    exact .inl ⟨rfl, (Host.Outcome.next.inj h).symm⟩
  | true =>
    by_cases hi : Inv s
    · rw [step_running hr hi] at h
      refine .inr ⟨rfl, hi, ?_⟩
      rcases s.beforeIssue.fetchIssue_cases with ⟨hp, hf⟩ | ⟨_, _, hf⟩ | ⟨i, hp, hi', hf⟩
      · rw [hf, finishTick_next] at h
        exact .inl ⟨hp, (Host.Outcome.next.inj h).symm⟩
      · rw [hf, finishTick_fault] at h
        exact absurd h (by simp)
      · rw [hf, exec_eq, finishTick_next] at h
        exact .inr ⟨i, hp, hi', (Host.Outcome.next.inj h).symm⟩
    · rw [step_violation hr hi] at h
      exact absurd h (by simp)

theorem steps_succ (k : Nat) (s : State) {t : State} (h : steps k s = .next t) : steps (k + 1) s = step t := by
  simp [steps, h]

theorem steps_prefix {k : Nat} {s t : State} (h : steps (k + 1) s = .next t) :
    ∃ u, steps k s = .next u ∧ step u = .next t := by
  unfold steps at h
  cases hk : steps k s with
  | next u =>
    rw [hk] at h
    exact ⟨u, rfl, h⟩
  | fault r =>
    rw [hk] at h
    cases h
  | refused r =>
    rw [hk] at h
    cases h

/-- A property that a state has and every step keeps holds after any number of steps. -/
theorem steps_keeps {P : State → Prop} (hstep : ∀ s t, P s → step s = .next t → P t) {s : State} (hs : P s) (k : Nat)
    {t : State} (h : steps k s = .next t) : P t := by
  induction k generalizing t with
  | zero =>
    cases h
    exact hs
  | succ k ih =>
    obtain ⟨u, hu, ht⟩ := steps_prefix h
    exact hstep u t (ih hu) ht

/-- A property of every started state that every step keeps holds of every reached state. -/
theorem reached_keeps {P : State → Prop} {c : Config} (hstart : startCheck c = none → P (State.started c))
    (hstep : ∀ s t, P s → step s = .next t → P t) {t : State} (h : Reached c t) : P t := by
  obtain ⟨hc, k, hk⟩ := h
  exact steps_keeps hstep (hstart hc) k hk

/-- A start whose checks pass leaves the state of R48, running. -/
theorem started_of_check {c : Config} (h : startCheck c = none) :
    State.started c = { State.initial c with run := true } := by
  simp [State.started, h]

end Sys2Proof.Machine
end

