-- ==== Sys2Proof/Tests/Slice0.lean ====
section
/-! SUPPORT. The model's own tests and the witnesses of its statements. Expected values come from spec/95_test_vectors.md or
from hand calculation by the rule a test names; words are written out from the encoding of 30_encoding.md R81. Each
`witness_<Name>` shows a concrete state and operands that meet every hypothesis of the statement `<Name>` together. -/

namespace Sys2Proof.Tests

open Sys2Proof.Machine

/-! ## Helpers -/

/-- The default configuration with a program. -/
def cfgOf (prog : List Diw) : Config := { prog := prog, progLen := BitVec.ofNat 16 prog.length }

/-- Steps from the start of a configuration all go on. -/
def goesOn (c : Config) (k : Nat) : Bool :=
  match steps k (State.started c) with
  | .next _ => true
  | _ => false

/-- The state after `k` steps from the start of a configuration. -/
def after (c : Config) (k : Nat) : State :=
  match steps k (State.started c) with
  | .next t => t
  | _ => State.initial c

theorem steps_after (c : Config) (k : Nat) (h : goesOn c k = true) : steps k (State.started c) = .next (after c k) := by
  unfold goesOn at h
  unfold after
  split at h <;> simp_all

theorem reached_after (c : Config) (k : Nat) (hc : startCheck c = none) (h : goesOn c k = true) :
    Reached c (after c k) := ⟨hc, k, steps_after c k h⟩

theorem step_after (c : Config) (k : Nat) (h : goesOn c k = true) (h' : goesOn c (k + 1) = true) :
    step (after c k) = .next (after c (k + 1)) := by
  rw [← steps_succ k (State.started c) (steps_after c k h)]
  exact steps_after c (k + 1) h'

/-- The five stamps of every record, for comparison with a trace table. -/
def stamps (s : State) : List (List (Option Nat)) :=
  s.trace.map fun r => [r.issued, r.execStart, r.execEnd, r.written, r.committed]

/-- The state `exec` gives. -/
def execNext (i : Instr) (s : State) : State :=
  match exec i s with
  | .next t => t
  | _ => s

/-! ## Programs of spec/95_test_vectors.md -/

/-- Scenario 1: ADDI R1, R0, 5; ADDI R2, R0, 7; ADD R3, R1, R2. -/
def addChain : Config := cfgOf [0x620000050000, 0x640000070000, 0x565000000000]

/-- Scenario 3: ADDI R1, R0, 8; ADDI R2, R0, 99; STORE R2, R1, 0; LOAD R3, R1, 0. -/
def storeLoad : Config := cfgOf [0x620000080000, 0x640000630000, 0x144000000000, 0x064000000000]

/-- Vector M3: BEQ R0, R0, 3; STORE R0, R0, 9; LOAD R1, R0, 9; LOAD R2, R0, 9, with Mem[9] = 7. -/
def squash : Config :=
  { cfgOf [0x200000000003, 0x100000090000, 0x020000090000, 0x040000090000] with memInit := [(9, 7)] }

/-- Vector T1's shape: BEQ R0, R0, 1; ADDI R1, R0, 5; ADDI R2, R0, 7. -/
def redirect : Config := cfgOf [0x200000000001, 0x620000050000, 0x640000070000]

/-- A program of one word, with R1 = 5, R2 = 0xFFFE, R3 = 3 and Mem[5] = 11. -/
def single (w : Diw) : Config :=
  { cfgOf [w] with
    regInit := { PerReg.const 0 with r1 := 5, r2 := 0xFFFE, r3 := 3 }
    memInit := [(5, 11)]
    cycleBudget := some 50 }

/-- ADDI R1, R0, 1 then NAND R2, R0, R0: both are result-ready in the same cycle. -/
def twoReady : Config := cfgOf [0x620000010000, 0x740000000000]

/-- One instruction of each opcode, as a word and as the instruction it stands for, for `single`. -/
def lone : List (Diw × Instr) :=
  [(0x084000020000, .load 4 1 2), (0x1440FFFF0000, .store 2 1 0xFFFF), (0x24C000000009, .beq 2 3 9),
   (0x300000000007, .call 7), (0x400000000000, .ret), (0x5A9800000000, .add 5 2 3), (0x6080FFFF0000, .addi 0 2 0xFFFF),
   (0x7C5000000000, .nand 6 1 2), (0x84D000000000, .mul 2 3 2)]

/-! ## Decoding: words from R81 and the tables of 95_test_vectors 2.1 and 1.1 -/

theorem test_decode_load : decode 0x044000000000 = .ok (.load 2 1 0) := by rfl
theorem test_decode_store : decode 0x1A00000C0000 = .ok (.store 5 0 12) := by rfl
theorem test_decode_beq : decode 0x200000000003 = .ok (.beq 0 0 3) := by rfl
theorem test_decode_call : decode 0x300000000004 = .ok (.call 4) := by rfl
theorem test_decode_ret : decode 0x400000000000 = .ok .ret := by rfl
theorem test_decode_add : decode 0x565000000000 = .ok (.add 3 1 2) := by rfl
theorem test_decode_addi : decode 0x6200FFFF0000 = .ok (.addi 1 0 0xFFFF) := by rfl
theorem test_decode_nand : decode 0x740000000000 = .ok (.nand 2 0 0) := by rfl
theorem test_decode_mul : decode 0x865000000000 = .ok (.mul 3 1 2) := by rfl
theorem test_decode_opcode_nine : decode 0x900000000000 = .error (.unknownOpcode 9) := by rfl
theorem test_decode_reserved : decode 0x620100050000 = .error (.reservedField 1) := by rfl
theorem test_decode_all_ones : decode 0xFFFFFFFFFFFF = .error (.reservedField 7) := by rfl
theorem test_decode_ret_ignores_fields : decode 0x4FF8FFFFFFFF = .ok .ret := by rfl
theorem test_decode_lone : ∀ p ∈ lone, decodeOption p.1 = some p.2 := by decide
theorem test_encode_lone : ∀ p ∈ lone, encode p.2 = p.1 := by decide
theorem test_tableWord_nand : decodeTableWord 48 0x740000000000 = some (.nand 2 0 0) := by decide
theorem test_tableWord_too_wide : decodeTableWord 64 0x1740000000000 = none := by decide

/-- The first step after reset runs the word placed for it (R170). -/
theorem test_withFetchWord_runs :
    (match step (State.reset.withFetchWord 48 0x620000050000) with
      | .next t => (t.pc, t.nseq, (t.station .addi 0).map (fun st => (st.j, st.k, st.rob)))
      | _ => (0, 0, none)) = (1, 1, some (.value 0, .value 5, 0)) := by decide

/-- An illegal word under `pc` is a fault of its own (R89, U10). -/
theorem test_illegal_word_faults :
    (match step (State.reset.withFetchWord 48 0x900000000000) with
      | .fault .illegalWord => true
      | _ => false) = true := by decide

/-- A state that breaks an invariant is a fault (R256, U5): `R0` not 0. -/
theorem test_broken_invariant_faults :
    (match step { State.started addChain with x := (PerReg.const 0).set 0 1 } with
      | .fault .invariantViolation => true
      | _ => false) = true := by decide

/-! ## The checks at start refuse ill-formed terms (R252, R254, R259; the table "Start checks") -/

theorem test_robSizeOk_refuses : Config.robSizeOk { robSize := 0 } = false := by decide
theorem test_robSizeOk_accepts : Config.robSizeOk { robSize := 1 } = true := by decide
theorem test_latenciesOk_refuses : Config.latenciesOk { lat := Config.default.lat.set .add 0 } = false := by decide
theorem test_latenciesOk_accepts : Config.latenciesOk Config.default = true := by decide
theorem test_hasStation_refuses :
    Instr.hasStation (.mul 3 1 2) { rsCount := Config.default.rsCount.set .mul 0 } = false := by decide
theorem test_hasStation_unused_class :
    Instr.hasStation (.addi 1 0 5) { rsCount := Config.default.rsCount.set .mul 0 } = true := by decide

/-- No station for `MUL`. -/
def noMul (prog : List Diw) : Config := { cfgOf prog with rsCount := Config.default.rsCount.set .mul 0 }

theorem test_start_checks :
    startCheck (cfgOf [0x900000000000]) = some .decodeError ∧
    startCheck (cfgOf [0x620100050000]) = some .decodeError ∧
    startCheck (noMul [0x865000000000]) = some .configError ∧
    startCheck (noMul [0x620000050000]) = none ∧
    startCheck { cfgOf [0x620000050000] with robSize := 0 } = some .configError ∧
    startCheck { cfgOf [0x620000050000] with lat := Config.default.lat.set .add 0 } = some .configError ∧
    startCheck (noMul [0x865000000000, 0x900000000000]) = some .configError ∧
    startCheck (noMul [0x900000000000, 0x865000000000]) = some .decodeError ∧
    startCheck { cfgOf [0x900000000000] with robSize := 0 } = some .configError ∧
    startCheck { cfgOf [0x620000050000, 0x900000000000] with progLen := 1 } = none := by decide

/-- A failed check reports its status and performs no tick (R252). -/
theorem test_failed_start :
    (State.started (cfgOf [0x900000000000])).run = false ∧
    (State.started (cfgOf [0x900000000000])).status.code = 3 := by decide

/-! ## Values: the tables 2.2, 2.3 of 95_test_vectors -/

theorem test_add_wraps : resultAdd 0xFFFF 0x0001 = ⟨0, none⟩ := by decide
theorem test_add_order_of_issue_slots :
    (execNext (.add 3 1 2) (State.started (single 0x565000000000))).station .add 0 =
      some ⟨.add, 0, 0, .value 5, .value 0xFFFE, 2, false, none, 0, 1, 0⟩ := by decide
theorem test_addi_negative : resultAddi 0x0005 0xFFFF = ⟨4, none⟩ := by decide
theorem test_nand_ones : resultNand 0xFFFF 0xFFFF = ⟨0, none⟩ := by decide
theorem test_nand_zero : resultNand 0x0000 0xFFFF = ⟨0xFFFF, none⟩ := by decide
theorem test_mul_low_half : resultMul 0xFFFF 0xFFFF = ⟨1, none⟩ := by decide
theorem test_mul_truncates : resultMul 0x0100 0x0100 = ⟨0, none⟩ := by decide
theorem test_load_address_wraps : resultLoad 0xFFFF 1 [(0, 7)] = ⟨7, some 0⟩ := by decide
theorem test_store_operands : resultStore 9 0x0010 0xFFF0 = ⟨9, some 0⟩ := by decide
theorem test_beq_equal : resultBeq 0x8000 0x8000 = ⟨1, none⟩ := by decide
theorem test_beq_no_sign_trick : resultBeq 0xFFFF 0x0001 = ⟨0, none⟩ := by decide
theorem test_call_link : resultCall 65534 = ⟨0xFFFF, none⟩ := by decide
theorem test_ret_value : resultRet 0xFFFF = ⟨0xFFFF, none⟩ := by decide

/-! ## Memory -/

theorem test_memory_write_sorted : Memory.write (Memory.write [] 9 1) 2 5 = [(2, 5), (9, 1)] := by decide
theorem test_memory_zero_removes : Memory.write [(2, 5), (9, 1)] 2 0 = [(9, 1)] := by decide
theorem test_memory_top_word : Memory.read [(0xFFFF, 3)] 0xFFFF = 3 := by decide
theorem test_memory_wf_refuses_zero : ¬ Memory.wf [(2, 0)] := by decide
theorem test_memory_wf_refuses_order : ¬ Memory.wf [(9, 1), (2, 5)] := by decide
theorem test_image_later_wins : Memory.ofImage [(4, 1), (4, 2)] = [(4, 2)] := by decide

/-! ## Trace tables of 95_test_vectors -/

theorem test_scenario1_trace : stamps (after addChain 9) =
    [[some 1, some 2, some 3, some 4, some 5], [some 2, some 3, some 4, some 5, some 6],
     [some 3, some 6, some 7, some 8, some 9]] := by decide

theorem test_scenario1_end :
    (after addChain 9).x = { PerReg.const 0 with r1 := 5, r2 := 7, r3 := 12 } ∧ (after addChain 9).pc = 3 ∧
    (after addChain 9).status = .doneOk ∧ (after addChain 9).run = false ∧ (after addChain 9).retired = 3 := by decide

theorem test_squash_end :
    (after squash 12).x = { PerReg.const 0 with r2 := 7 } ∧ (after squash 12).mem = [(9, 7)] ∧
    (after squash 12).mispred = 1 ∧ (after squash 12).retired = 2 ∧ (after squash 12).nseq = 4 := by decide

/-- In the passage of one instruction of each opcode the record is that of R197 and the effect is the instruction's. -/
theorem test_lone_effects : ∀ p ∈ lone,
    (after (single p.1) (Config.default.lat.get p.2.opcode + 3)).arch =
      (State.initial (single p.1)).arch.effect p.2 ∧
    (after (single p.1) (Config.default.lat.get p.2.opcode + 3)).trace =
      [uncontendedRecord 0 p.2.opcode 1 (Config.default.lat.get p.2.opcode)] := by decide

/-! ## Witnesses: encoding -/

/-- Two words of `RET` that differ in every bit outside the opcode and the reserved field. -/
theorem witness_IgnoredFieldsHaveNoEffect :
    (0x400000000000 : Diw) ≠ 0x4FF8FFFFFFFF ∧
    diwBits 0x400000000000 47 44 = diwBits 0x4FF8FFFFFFFF 47 44 ∧
    diwBits 0x400000000000 34 32 = diwBits 0x4FF8FFFFFFFF 34 32 ∧
    diwBits 0x400000000000 47 44 ∉ [0, 1, 2, 5, 6, 7, 8] ∧ diwBits 0x400000000000 47 44 ∉ [5, 7, 8] ∧
    diwBits 0x400000000000 47 44 ∉ [0, 1, 6] ∧ diwBits 0x400000000000 47 44 ∉ [2, 3] := by decide

/-- Two words of `ADD` that agree in the registers and differ below. -/
theorem witness_IgnoredFieldsHaveNoEffect_add :
    (0x565000000000 : Diw) ≠ 0x5650FFFFFFFF ∧
    diwBits 0x565000000000 34 32 = diwBits 0x5650FFFFFFFF 34 32 ∧
    diwBits 0x565000000000 47 44 ∈ [5, 7, 8] ∧
    diwBits 0x565000000000 43 41 = diwBits 0x5650FFFFFFFF 43 41 ∧
    diwBits 0x565000000000 40 38 = diwBits 0x5650FFFFFFFF 40 38 ∧
    diwBits 0x565000000000 37 35 = diwBits 0x5650FFFFFFFF 37 35 := by decide

/-! ## Witnesses: the step -/

/-- A state in which Issue meets an illegal word: the invariant holds, the word is inside the program. -/
theorem witness_StepStopsExactly :
    (State.reset.withFetchWord 48 0x900000000000).run = true ∧ Inv (State.reset.withFetchWord 48 0x900000000000) ∧
    (State.reset.withFetchWord 48 0x900000000000).beforeIssue.pc < 1 ∧
    (State.reset.withFetchWord 48 0x900000000000).cfg.instrAt 0 = none :=
  ⟨by decide, inv_of_test (by decide), by decide, by decide⟩

theorem witness_StepRunsDecodedInstruction :
    (State.started addChain).run = true ∧ Inv (State.started addChain) ∧
    (State.started addChain).beforeIssue.pc < addChain.progLen ∧
    (State.started addChain).cfg.prog[(State.started addChain).beforeIssue.pc.toNat]? = some 0x620000050000 ∧
    decode 0x620000050000 = .ok (.addi 1 0 5) ∧ (State.started addChain).readyHead = none :=
  ⟨by decide, inv_of_test (by decide), by decide, by decide, rfl, by decide⟩

/-- The same where Commit has just sent `pc` elsewhere: the taken `BEQ` of `redirect`. -/
theorem witness_StepRunsDecodedInstruction_redirected :
    (after redirect 3).run = true ∧ Inv (after redirect 3) ∧ (after redirect 3).pc = 3 ∧
    (after redirect 3).beforeIssue.pc = 1 ∧ (after redirect 3).beforeIssue.pc < (after redirect 3).cfg.progLen ∧
    (after redirect 3).cfg.prog[1]? = some 0x620000050000 ∧ decode 0x620000050000 = .ok (.addi 1 0 5) :=
  ⟨by decide, inv_of_test (by decide), by decide, by decide, by decide, by decide, rfl⟩

theorem witness_PastProgramNothingIssues :
    (after addChain 3).run = true ∧ Inv (after addChain 3) ∧
    (after addChain 3).cfg.progLen ≤ (after addChain 3).beforeIssue.pc :=
  ⟨by decide, inv_of_test (by decide), by decide⟩

/-! ## Witnesses: Issue -/

/-- At the start of a program station 0 of every class is free: the hypothesis of the nine statements on Issue. -/
theorem accepts_started (c : Opcode) : Accepts (State.started addChain) c 0 := by
  cases c <;> exact ⟨by decide, by decide, by decide, by decide, by decide⟩

theorem witness_AddIssues : Accepts (State.started addChain) .add 0 := accepts_started .add
theorem witness_NandIssues : Accepts (State.started addChain) .nand 0 := accepts_started .nand
theorem witness_MulIssues : Accepts (State.started addChain) .mul 0 := accepts_started .mul
theorem witness_LoadIssues : Accepts (State.started addChain) .load 0 := accepts_started .load
theorem witness_StoreIssues : Accepts (State.started addChain) .store 0 := accepts_started .store
theorem witness_BeqIssues : Accepts (State.started addChain) .beq 0 := accepts_started .beq
theorem witness_CallIssues : Accepts (State.started addChain) .call 0 := accepts_started .call
theorem witness_RetIssues : Accepts (State.started addChain) .ret 0 := accepts_started .ret

/-- With the first station busy, the next one is taken. -/
theorem witness_AddiIssues : Accepts (after addChain 1) .addi 1 :=
  ⟨by decide, by decide, by decide, by decide, by decide⟩

theorem witness_IssueStalls_ret :
    ∃ p ∈ (after (single 0x400000000000) 1).inFlight, ∃ e, (after (single 0x400000000000) 1).entry p = some e ∧
      e.op = .ret :=
  ⟨0, by decide, _, rfl, by decide⟩

theorem witness_IssueStalls_full :
    ((after { addChain with robSize := 3 } 2).tail + 1) % 3 = (after { addChain with robSize := 3 } 2).head := by decide

theorem witness_IssueStalls_stations :
    ∀ k, k < ((after squash 2).rs.get (Instr.opcode (.store 0 0 0))).length →
      ((after squash 2).station .store k).isSome = true := by decide

/-- The four cases of operand capture: `R0`, no mapping, a producer that is ready, one that is not. -/
theorem witness_CaptureByRenameTable :
    ((1 : Reg) ≠ 0 ∧ (State.started addChain).stat.get 1 = none) ∧
    ((1 : Reg) ≠ 0 ∧ (after addChain 4).stat.get 1 = some 0 ∧
      (after addChain 4).entry 0 = some ⟨.written, .addi, 0, 0, .register 1, some 5, false, none⟩) ∧
    ((2 : Reg) ≠ 0 ∧ (after addChain 4).stat.get 2 = some 1 ∧
      (after addChain 4).entry 1 = some ⟨.executing, .addi, 1, 1, .register 2, none, false, none⟩) := by decide

/-! ## Witnesses: Execute -/

/-- A station that begins, with more than one cycle to go. -/
theorem witness_VisitAdvancesStation_begins :
    (after addChain 1).station .addi 0 = some ⟨.addi, 0, 5, .value 0, .value 5, 2, false, none, 0, 1, 0⟩ ∧
    (after addChain 1).entry 0 = some ⟨.issued, .addi, 0, 0, .register 1, none, false, none⟩ ∧
    (after addChain 1).trace[0]? = some { idx := 0, op := .addi, issued := some 1 } ∧
    ¬(Opcode.addi = .load ∧ (after addChain 1).loadBlocked 0 (0 + 5) = true) := by decide

/-- A station that has begun, in its last cycle. -/
theorem witness_VisitAdvancesStation_ends :
    (after addChain 2).station .addi 0 = some ⟨.addi, 0, 5, .value 0, .value 5, 1, true, none, 0, 1, 0⟩ ∧
    (after addChain 2).entry 0 = some ⟨.executing, .addi, 0, 0, .register 1, none, false, none⟩ ∧
    (after addChain 2).trace[0]? = some { idx := 0, op := .addi, issued := some 1, execStart := some 2 } := by decide

/-- A load that is not held back, at a station of latency 6. -/
theorem witness_VisitAdvancesStation_load :
    (after (single 0x084000020000) 1).station .load 0 =
      some ⟨.load, 0, 2, .value 5, .value 0, 6, false, none, 0, 1, 0⟩ ∧
    (after (single 0x084000020000) 1).loadBlocked 0 (5 + 2) = false := by decide

theorem witness_VisitSkipsStation_waits :
    (after addChain 3).station .add 0 = some ⟨.add, 2, 0, .waits 0, .waits 1, 2, false, none, 2, 3, 0⟩ := by decide

theorem witness_VisitSkipsStation_finished :
    ((after addChain 3).station .addi 0).map Station.left = some 0 := by decide

theorem witness_VisitSkipsStation_blocked :
    (after storeLoad 5).station .load 0 = some ⟨.load, 3, 0, .value 8, .value 0, 6, false, none, 3, 4, 0⟩ ∧
    (after storeLoad 5).loadBlocked 3 (8 + 0) = true := by decide

/-- Blocked by an address that is not known, by an equal address, and not blocked by another address. -/
theorem witness_LoadBlockedExactly :
    (after storeLoad 5).head < (after storeLoad 5).cfg.robSize ∧ (after storeLoad 5).loadBlocked 3 8 = true ∧
    (after storeLoad 12).head < (after storeLoad 12).cfg.robSize ∧ (after storeLoad 12).loadBlocked 3 8 = true ∧
    (after storeLoad 12).loadBlocked 3 9 = false := by decide

/-- The two cases of `BEQ` in the result table and a station of every opcode. -/
theorem witness_ResultTable :
    (∀ op : Opcode, (⟨op, 0, 1, .value 2, .value 2, 1, true, none, 0, 1, 0⟩ : Station).op = op) ∧
    (0x8000 : Word) = 0x8000 ∧ (0xFFFF : Word) ≠ 0x0001 := ⟨fun _ => rfl, rfl, by decide⟩

/-! ## Witnesses: Write -/

theorem witness_ArbitrationPicksOldest :
    Inv (after twoReady 3) ∧
    (∃ c k st, (after twoReady 3).station c k = some st ∧ st.result ≠ none) ∧
    ((after twoReady 3).station .addi 0).map Station.result = some (some ⟨1, none⟩) ∧
    ((after twoReady 3).station .nand 0).map Station.result = some (some ⟨0xFFFF, none⟩) :=
  ⟨inv_of_test (by decide), ⟨.nand, 0, _, rfl, by decide⟩, by decide, by decide⟩

theorem witness_OneBroadcastPerCycle_released :
    (after twoReady 3).station .addi 0 ≠ none ∧ (after twoReady 3).writeArbitrate.station .addi 0 = none := by decide

theorem witness_OneBroadcastPerCycle_none :
    ∀ c k st, (State.reset).station c k = some st → st.result = none := by
  intro c k st h
  have hb : ∀ st, st ∈ State.reset.busyStations → st.result = none := by decide
  cases c <;> simp only [State.station, State.reset, PerClass.get] at h <;>
    rcases k with _ | _ | _ | _ | _ <;> simp at h

theorem witness_DeliveryFillsWaiters :
    (after addChain 3).beforeIssue.cdb = some ⟨0, 5, none⟩ ∧
    (after addChain 3).beforeIssue.entry 0 = some ⟨.executing, .addi, 0, 0, .register 1, none, false, none⟩ ∧
    (after addChain 3).beforeIssue.station .add 0 =
      some ⟨.add, 2, 0, .waits 0, .waits 1, 2, false, none, 2, 3, 0⟩ := by decide

theorem witness_DeliveryFillsWaiters_store :
    (after storeLoad 11).beforeIssue.cdb = some ⟨2, 99, some 8⟩ ∧
    (after storeLoad 11).beforeIssue.opAt 2 = some .store := by decide

theorem witness_DeliveryFillsWaiters_beq :
    (after squash 2).beforeIssue.cdb = some ⟨0, 1, none⟩ ∧ (after squash 2).beforeIssue.opAt 0 = some .beq := by decide

/-! ## Witnesses: Commit -/

theorem witness_CommitWritesRegister :
    (after addChain 4).readyHead = some ⟨.written, .addi, 0, 0, .register 1, some 5, false, none⟩ ∧
    Opcode.addi ∈ [Opcode.load, .call, .add, .addi, .nand, .mul] ∧
    (after addChain 4).trace[0]? = some ⟨0, .addi, some 1, some 2, some 3, some 4, none⟩ := by decide

/-- With `R0` as the destination. -/
theorem witness_CommitWritesRegister_r0 :
    (after (single 0x6080FFFF0000) 4).readyHead =
      some ⟨.written, .addi, 0, 0, .register 0, some 0xFFFD, false, none⟩ ∧
    (after (single 0x6080FFFF0000) 4).trace[0]? = some ⟨0, .addi, some 1, some 2, some 3, some 4, none⟩ := by decide

theorem witness_CommitWritesMemory :
    (after storeLoad 12).readyHead = some ⟨.written, .store, 2, 2, .memory (some 8), some 99, false, none⟩ ∧
    Memory.wf (after storeLoad 12).mem := by decide

theorem witness_CommitBeqNotTaken :
    (after (single 0x24C000000009) 3).readyHead =
      some ⟨.written, .beq, 0, 0, .none, some 0, true, some false⟩ := by decide

theorem witness_CommitBeqTakenEmptiesMachine :
    Inv (after squash 3) ∧
    (after squash 3).readyHead = some ⟨.written, .beq, 0, 0, .none, some 1, true, some true⟩ ∧
    (after squash 3).cfg.instrAt 0 = some (.beq 0 0 3) ∧ (after squash 3).count = 3 :=
  ⟨inv_of_test (by decide), by decide, by decide, by decide⟩

theorem witness_CommitRetRedirects :
    (after (single 0x400000000000) 3).readyHead =
      some ⟨.written, .ret, 0, 0, .none, some 5, false, none⟩ := by decide

theorem witness_CommitWaitsForHead_empty : State.reset.head = State.reset.tail := by decide

/-- The head is still executing while the entry behind it is Written: a `NAND` behind a `MUL`. -/
theorem witness_CommitWaitsForHead_younger :
    (after (cfgOf [0x860000000000, 0x740000000000]) 5).entry 0 =
      some ⟨.executing, .mul, 0, 0, .register 3, none, false, none⟩ ∧
    ((after (cfgOf [0x860000000000, 0x740000000000]) 5).entry 1).map RobEntry.phase = some .written := by decide

/-! ## Witnesses: what a step changes -/

theorem witness_MemoryChangesOnlyAtStoreCommit :
    step (after storeLoad 12) = .next (after storeLoad 13) ∧
    Memory.read (after storeLoad 13).mem 8 ≠ Memory.read (after storeLoad 12).mem 8 :=
  ⟨step_after _ _ (by decide) (by decide), by decide⟩

theorem witness_RegisterChangesOnlyAtCommit :
    step (after addChain 4) = .next (after addChain 5) ∧ (after addChain 5).x.get 1 ≠ (after addChain 4).x.get 1 :=
  ⟨step_after _ _ (by decide) (by decide), by decide⟩

theorem witness_ProgramNeverWritten : step (after addChain 4) = .next (after addChain 5) :=
  step_after _ _ (by decide) (by decide)

/-- A taken `BEQ` is counted. -/
theorem witness_CountersCount :
    (after squash 3).run = true ∧ step (after squash 3) = .next (after squash 4) ∧ (after squash 4).mispred = 1 :=
  ⟨by decide, step_after _ _ (by decide) (by decide), by decide⟩

/-- A taken `BEQ` at the head, after which Issue takes the next index. -/
theorem witness_PcWritesInOrder_beq :
    (after squash 3).run = true ∧ step (after squash 3) = .next (after squash 4) ∧
    ((after squash 3).readyHead.map fun e => (e.op, e.outcome)) = some (.beq, some true) ∧
    (after squash 4).nseq = (after squash 3).nseq + 1 :=
  ⟨by decide, step_after _ _ (by decide) (by decide), by decide, by decide⟩

/-- A `RET` at the head, after which nothing is issued. -/
theorem witness_PcWritesInOrder_ret :
    (after (single 0x400000000000) 3).run = true ∧
    step (after (single 0x400000000000) 3) = .next (after (single 0x400000000000) 4) ∧
    ((after (single 0x400000000000) 3).readyHead.map RobEntry.op) = some .ret ∧
    (after (single 0x400000000000) 4).nseq = (after (single 0x400000000000) 3).nseq :=
  ⟨by decide, step_after _ _ (by decide) (by decide), by decide, by decide⟩

/-- No entry to commit, and a `CALL` issued. -/
theorem witness_PcWritesInOrder_call :
    (after (single 0x300000000007) 0).run = true ∧
    step (after (single 0x300000000007) 0) = .next (after (single 0x300000000007) 1) ∧
    (after (single 0x300000000007) 0).readyHead = none ∧
    (after (single 0x300000000007) 1).nseq = (after (single 0x300000000007) 0).nseq + 1 ∧
    (single 0x300000000007).instrAt 0 = some (.call 7) :=
  ⟨by decide, step_after _ _ (by decide) (by decide), by decide, by decide, by decide⟩

theorem witness_StoppedEngineIsStable : State.reset.run = false := by decide

/-- A run that finishes, one that reaches its budget with the program unfinished, one that goes on. -/
theorem witness_RunLoopTests :
    ((after addChain 8).run = true ∧ step (after addChain 8) = .next (after addChain 9) ∧
      (after addChain 9).status = .doneOk ∧ (after addChain 9).run = false) ∧
    ((after { addChain with cycleBudget := some 3 } 2).run = true ∧
      step (after { addChain with cycleBudget := some 3 } 2) = .next (after { addChain with cycleBudget := some 3 } 3) ∧
      (after { addChain with cycleBudget := some 3 } 3).status = .budgetExceeded) ∧
    ((after addChain 3).run = true ∧ step (after addChain 3) = .next (after addChain 4) ∧
      (after addChain 4).run = true) :=
  ⟨⟨by decide, step_after _ _ (by decide) (by decide), by decide, by decide⟩,
    ⟨by decide, step_after _ _ (by decide) (by decide), by decide⟩,
    by decide, step_after _ _ (by decide) (by decide), by decide⟩

/-! ## Witnesses: reset and start -/

theorem witness_MemoryImageLaterPairWins :
    (3 : Word) ≠ 4 ∧ Memory.read (Memory.ofImage ([(3, 9), (4, 1)] ++ [(4, 2)])) 3 = 9 := by decide

theorem witness_StartChecksInOrder :
    (Config.robSize { robSize := 0 } < 1) ∧
    (∃ op, ({ lat := Config.default.lat.set .add 0 } : Config).lat.get op < 1) ∧
    (1 ≤ (noMul [0x620000050000, 0x865000000000]).robSize ∧
      (∀ op, 1 ≤ (noMul [0x620000050000, 0x865000000000]).lat.get op) ∧
      1 < (noMul [0x620000050000, 0x865000000000]).progLen.toNat ∧
      (noMul [0x620000050000, 0x865000000000]).instrAt 0 = some (.addi 1 0 5) ∧
      (noMul [0x620000050000, 0x865000000000]).instrAt 1 = some (.mul 3 1 2) ∧
      (noMul [0x620000050000, 0x865000000000]).rsCount.get .mul = 0) ∧
    (1 < (cfgOf [0x620000050000, 0x900000000000]).progLen.toNat ∧
      (cfgOf [0x620000050000, 0x900000000000]).instrAt 1 = none) :=
  ⟨by decide, ⟨.add, by decide⟩,
    ⟨by decide, fun op => by cases op <;> decide, by decide, by decide, by decide, by decide⟩, by decide, by decide⟩

theorem witness_StartRequest :
    (State.started addChain).run = true ∧
    (State.reset.run = false ∧ startCheck State.reset.cfg = none) ∧
    ((State.initial (cfgOf [0x900000000000])).run = false ∧
      startCheck (State.initial (cfgOf [0x900000000000])).cfg = some .decodeError) := by decide

theorem witness_EmptyProgramEndsInOneCycle :
    startCheck (cfgOf []) = none ∧ (cfgOf []).progLen = 0 ∧ (cfgOf []).cycleBudget = none := by decide

theorem witness_SizeOneBufferNeverIssues :
    Config.robSize { addChain with robSize := 1 } = 1 ∧ Config.startPC { addChain with robSize := 1 } < 3 ∧
    Reached { addChain with robSize := 1 } (after { addChain with robSize := 1 } 30) ∧
    (after { addChain with robSize := 1 } 30).run = false :=
  ⟨by decide, by decide, reached_after _ _ (by decide) (by decide), by decide⟩

theorem witness_InvariantAtStart : startCheck addChain = none := by decide

theorem witness_EveryStepKeepsInvariant : Inv (after squash 3) ∧ step (after squash 3) = .next (after squash 4) :=
  ⟨inv_of_test (by decide), step_after _ _ (by decide) (by decide)⟩

theorem witness_StartedRunNeverFaults :
    startCheck storeLoad = none ∧ Inv (after storeLoad 6) ∧ ProgramLegal (after storeLoad 6).cfg := by
  refine ⟨by decide, inv_of_test (by decide), fun i hi => ?_⟩
  have h : ∀ i < (after storeLoad 6).cfg.progLen.toNat, ((after storeLoad 6).cfg.instrAt i).isSome = true := by decide
  exact Option.isSome_iff_exists.mp (h i hi)

/-! ## Witnesses: reached states -/

/-- A reached state in the middle of a run: two entries Written or executing, stations busy, tags waiting. -/
theorem reached_addChain : Reached addChain (after addChain 4) := reached_after _ _ (by decide) (by decide)

/-- A reached state at the end of a run. -/
theorem reached_addChain_end : Reached addChain (after addChain 9) := reached_after _ _ (by decide) (by decide)

theorem witness_RegisterZeroStaysZero : Reached (single 0x6080FFFF0000) (after (single 0x6080FFFF0000) 4) ∧
    (after (single 0x6080FFFF0000) 4).commit.x.get 0 = 0 :=
  ⟨reached_after _ _ (by decide) (by decide), by decide⟩

theorem witness_WrittenExactlyWhenReady :
    Reached addChain (after addChain 4) ∧
    (after addChain 4).entry 0 = some ⟨.written, .addi, 0, 0, .register 1, some 5, false, none⟩ ∧
    (after addChain 4).entry 1 = some ⟨.executing, .addi, 1, 1, .register 2, none, false, none⟩ ∧
    (after addChain 4).entry 5 = none := ⟨reached_addChain, by decide, by decide, by decide⟩

theorem witness_StatNamesYoungestWriter :
    Reached addChain (after addChain 4) ∧ (3 : Reg) ≠ 0 ∧ (after addChain 4).stat.get 3 = some 2 ∧
    (after addChain 4).stat.get 4 = none := ⟨reached_addChain, by decide, by decide, by decide⟩

theorem witness_StationsMatchEntries :
    Reached addChain (after addChain 4) ∧
    ((after addChain 4).station .addi 1).map Station.rob = some 1 ∧
    ((after addChain 4).station .add 0).map Station.rob = some 2 ∧
    ((after addChain 4).entry 2).map RobEntry.phase = some .issued :=
  ⟨reached_addChain, by decide, by decide, by decide⟩

theorem witness_TagsNameOlderUndelivered :
    Reached addChain (after addChain 4) ∧
    (after addChain 4).station .add 0 = some ⟨.add, 2, 0, .value 5, .waits 1, 2, false, none, 2, 3, 0⟩ :=
  ⟨reached_addChain, by decide⟩

/-- The records of a run in the middle of it are as the invariant of the trace has them. -/
theorem traceInv_squash : TraceInv (after squash 3) where
  records := by
    have h : ∀ r ∈ (after squash 3).trace,
        (∃ a ∈ r.issued, a ≤ (after squash 3).cycle) ∧
        (∀ b ∈ r.execStart, (∃ a ∈ r.issued, a < b) ∧ b ≤ (after squash 3).cycle) ∧
        (∀ d ∈ r.execEnd, (∃ b ∈ r.execStart, b ≤ d ∧ d + 1 = b + (after squash 3).cfg.lat.get r.op) ∧
          d ≤ (after squash 3).cycle) ∧
        (∀ w ∈ r.written, (∃ d ∈ r.execEnd, d < w) ∧ w ≤ (after squash 3).cycle) ∧
        ∀ f ∈ r.committed, (∃ w ∈ r.written, w < f) ∧ f ≤ (after squash 3).cycle := by decide
    exact fun r hr => ⟨(h r hr).1, (h r hr).2.1, (h r hr).2.2.1, (h r hr).2.2.2.1, (h r hr).2.2.2.2⟩
  owned := by decide
  seqRises := by decide
  begun := by decide
  retiredInOrder := by decide
  retiredOlder := by decide

theorem witness_StampsInOrder_step :
    startCheck squash = none ∧ Inv (after squash 3) ∧ TraceInv (after squash 3) ∧
    step (after squash 3) = .next (after squash 4) ∧
    (after squash 3).trace[0]? = some ⟨0, .beq, some 1, some 2, some 2, some 3, none⟩ ∧
    (after squash 4).trace[0]? = some ⟨0, .beq, some 1, some 2, some 2, some 3, some 4⟩ :=
  ⟨by decide, inv_of_test (by decide), traceInv_squash, step_after _ _ (by decide) (by decide), by decide, by decide⟩

theorem witness_StampsInOrder :
    Reached addChain (after addChain 9) ∧
    (⟨2, .add, some 3, some 6, some 7, some 8, some 9⟩ : Record) ∈ (after addChain 9).trace :=
  ⟨reached_addChain_end, by decide⟩

theorem witness_LatencyIsExact :
    Reached addChain (after addChain 9) ∧
    (⟨2, .add, some 3, some 6, some 7, some 8, some 9⟩ : Record) ∈ (after addChain 9).trace ∧
    7 - 6 + 1 = addChain.lat.get .add :=
  ⟨reached_addChain_end, by decide, by decide⟩

theorem witness_RetirementInProgramOrder :
    Reached addChain (after addChain 9) ∧ 0 < 2 ∧
    (after addChain 9).trace[0]? = some ⟨0, .addi, some 1, some 2, some 3, some 4, some 5⟩ ∧
    (after addChain 9).trace[2]? = some ⟨2, .add, some 3, some 6, some 7, some 8, some 9⟩ :=
  ⟨reached_addChain_end, by decide, by decide, by decide⟩

/-- Each of the nine instructions, alone in its program. -/
theorem witness_LoneInstructionTakesItsEffect : ∀ p ∈ lone,
    startCheck (single p.1) = none ∧ 2 ≤ (single p.1).robSize ∧ (single p.1).startPC < (single p.1).progLen ∧
    (single p.1).instrAt (single p.1).startPC.toNat = some p.2 ∧
    (single p.1).progLen ≤ (single p.1).startPC + 1 ∧
    (single p.1).progLen ≤ ((State.initial (single p.1)).arch.effect p.2).pc ∧
    (single p.1).lat.get p.2.opcode + 3 ≤ (single p.1).budget := by decide

/-- A run with a value delivered, a value computed and a tag waiting simulates the sequential machine. -/
theorem simInv_addChain : SimInv (after addChain 4) where
  frontier := by decide
  onPath := by decide
  fetch := by decide
  retYoungest := by decide
  delivered := by decide
  stations := by
    have h : ∀ st ∈ (after addChain 4).busyStations, ∀ i ∈ (after addChain 4).cfg.instrAt st.idx.toNat,
        (after addChain 4).standsFor st.j = some (((after addChain 4).archBefore st.rob).sources i).1 ∧
        (after addChain 4).standsFor st.k = some (((after addChain 4).archBefore st.rob).sources i).2 ∧
        (st.op ≠ .load ∧ st.op ≠ .store) ∧
        (st.result = none ∨ st.result = some
          ⟨((after addChain 4).archBefore st.rob).value i, ((after addChain 4).archBefore st.rob).address i⟩) := by
      decide
    intro st hst i hi
    obtain ⟨hj, hk, ⟨hl, hs⟩, hr⟩ := h st hst i hi
    exact ⟨hj, hk, fun h => absurd h hl, fun h => absurd h hs, hr, fun h => absurd h hl⟩

theorem witness_SequentialEquivalence_step :
    startCheck addChain = none ∧ Inv (after addChain 4) ∧ SimInv (after addChain 4) ∧
    step (after addChain 4) = .next (after addChain 5) :=
  ⟨by decide, inv_of_test (by decide), simInv_addChain, step_after _ _ (by decide) (by decide)⟩

/-- A run that has ended, with a misprediction in it. -/
theorem witness_SequentialEquivalence :
    Reached squash (after squash 12) ∧ (after squash 12).run = false ∧ (after squash 12).status = .doneOk ∧
    (after squash 12).retired = 2 :=
  ⟨reached_after _ _ (by decide) (by decide), by decide, by decide, by decide⟩

end Sys2Proof.Tests
end

section
/-! Retirement is in program order (R41). A tick compares instructions only by their sequence numbers and by their
`committed` stamps, so the invariant `RetireOrder` speaks of these two views of a state and of the queue's indices.
Every stage but Commit and Issue leaves the views alone (`SameOrder`); Commit pops the head and stamps it with the
current cycle, Issue puts the next sequence number at the tail. -/

namespace Sys2Proof.Machine

/-! ## The two views -/

/-- The sequence number of the instruction in slot `p`. -/
def State.seqAt (s : State) (p : Nat) : Option Nat := (s.entry p).map RobEntry.seq

/-- The cycle in which instruction `i` was committed. -/
def State.commitAt (s : State) (i : Nat) : Option Nat := s.trace[i]?.bind Record.committed

theorem State.seqAt_congr {s t : State} (h : t.rob = s.rob) (p : Nat) : t.seqAt p = s.seqAt p := by
  rw [State.seqAt, State.entry_congr h, State.seqAt]

theorem State.commitAt_congr {s t : State} (h : t.trace = s.trace) (i : Nat) : t.commitAt i = s.commitAt i := by
  rw [State.commitAt, h, State.commitAt]

/-- Changing an entry without its sequence number. -/
theorem State.seqAt_modifyEntry (s : State) (p q : Nat) {f : RobEntry → RobEntry} (hf : ∀ e, (f e).seq = e.seq) :
    (s.modifyEntry p f).seqAt q = s.seqAt q := by
  rw [State.seqAt, State.entry_modifyEntry, State.seqAt]
  split
  · cases s.entry q <;> simp [hf]
  · rfl

theorem State.seqAt_recomputeSpec (s : State) (p : Nat) : s.recomputeSpec.seqAt p = s.seqAt p := by
  rw [State.seqAt, State.entry_recomputeSpec, State.seqAt]
  cases s.entry p <;> rfl

theorem State.seqAt_popHead (s : State) (p : Nat) :
    s.popHead.seqAt p = if p = s.head then none else s.seqAt p := by
  have hpop : s.popHead.entry p = (s.setEntry s.head none).entry p := State.entry_congr rfl p
  rw [State.seqAt, hpop, State.entry_setEntry, State.seqAt]
  by_cases hp : p = s.head
  · subst hp
    by_cases hl : s.head < s.rob.length
    · simp [hl]
    · simp [hl, State.entry, List.getD_eq_getElem?_getD]
  · simp [hp]

/-- A slot that holds an instruction after an allocation held it before, or is the slot allocated. -/
theorem State.seqAt_allocate (s : State) (q : IssueRequest) (k : Nat) {p n : Nat}
    (h : (s.allocate q k).seqAt p = some n) : (p = s.tail ∧ n = s.nseq) ∨ s.seqAt p = some n := by
  have halloc : (s.allocate q k).entry p = (s.setEntry s.tail (some (s.newEntry q))).entry p :=
    State.entry_congr rfl p
  rw [State.seqAt, halloc, State.entry_setEntry] at h
  split at h
  · next hp => exact .inl ⟨hp.1, (Option.some.inj h).symm⟩
  · exact .inr h

/-- A `committed` stamp that is there after one was set was there before, or is the one set. -/
theorem State.commitAt_stamp_committed (s : State) (n : Nat) {i a : Nat}
    (h : (s.stamp n .committed).commitAt i = some a) : (i = n ∧ a = s.cycle) ∨ s.commitAt i = some a := by
  simp only [State.commitAt, State.stamp_trace, List.getElem?_modify] at h ⊢
  by_cases hi : n = i
  · subst hi
    cases hr : s.trace[n]? with
    | none => simp [hr] at h
    | some r => exact .inl ⟨rfl, by simpa [hr, Record.set, eq_comm] using h⟩
  · exact .inr (by simpa [hi] using h)

/-- The other four stamps leave `committed` alone. -/
theorem State.commitAt_stamp_other (s : State) (n i : Nat) {f : Stamp} (hf : f ≠ .committed) :
    (s.stamp n f).commitAt i = s.commitAt i := by
  have hset : ∀ r : Record, (r.set f s.cycle).committed = r.committed := by
    intro r
    cases f
    case committed => exact absurd rfl hf
    all_goals rfl
  simp only [State.commitAt, State.stamp_trace, List.getElem?_modify]
  by_cases hi : n = i <;> cases s.trace[i]? <;> simp [hi, hset]

theorem State.commitAt_stampEntry (s : State) (p i : Nat) {f : Stamp} (hf : f ≠ .committed) :
    (s.stampEntry p f).commitAt i = s.commitAt i := by
  unfold State.stampEntry
  split
  · exact s.commitAt_stamp_other _ i hf
  · rfl

/-- A new record is not committed. -/
theorem State.commitAt_allocate (s : State) (q : IssueRequest) (k i : Nat) :
    (s.allocate q k).commitAt i = s.commitAt i := by
  simp only [State.commitAt, State.allocate_trace, List.getElem?_append]
  split
  · rfl
  · next hi =>
    rw [List.getElem?_eq_none (Nat.le_of_not_lt hi)]
    cases i - s.trace.length <;> rfl

/-! ## The slots after a squash and after a retirement (R211, R195) -/

theorem State.entry_foldl_squashOne (s : State) (l : List Nat) (p : Nat) :
    (l.foldl State.squashOne s).entry p = if p ∈ l then none else s.entry p := by
  induction l generalizing s with
  | nil => simp
  | cons q rest ih =>
    rw [List.foldl_cons, ih, State.entry_squashOne]
    by_cases hr : p ∈ rest <;> simp [hr]

/-- A squash empties the in-flight slots younger than `h` and keeps every other. -/
theorem State.entry_squashYoungerThan (s : State) (h p : Nat) :
    (s.squashYoungerThan h).entry p =
      if p ∈ s.inFlight ∧ s.age h < s.age p then none else s.entry p := by
  have htail : (s.squashYoungerThan h).entry p =
      ((s.inFlight.filter fun q => decide (s.age h < s.age q)).foldl State.squashOne s).entry p :=
    State.entry_congr rfl p
  rw [htail, State.entry_foldl_squashOne]
  simp

/-- The misprediction procedure leaves the queue as the squash of everything younger than the head does (R212). -/
theorem State.mispredict_queue (s : State) (e : RobEntry) :
    (s.mispredict e).tail = (s.head + 1) % s.n ∧
      ∀ p, (s.mispredict e).entry p = if p ∈ s.inFlight ∧ s.age s.head < s.age p then none else s.entry p := by
  have hentry := State.entry_squashYoungerThan { s with mispred := s.mispred + 1 } s.head
  unfold State.mispredict
  cases s.branchTarget e.idx with
  | none => exact ⟨rfl, hentry⟩
  | some target => exact ⟨rfl, hentry⟩

/-- A side effect keeps the queue, or squashes everything younger than the head. -/
theorem State.sideEffect_queue (s : State) (e : RobEntry) :
    ((s.sideEffect e).tail = s.tail ∧ (s.sideEffect e).rob = s.rob) ∨
      ((s.sideEffect e).tail = (s.head + 1) % s.n ∧
        ∀ p, (s.sideEffect e).entry p =
          if p ∈ s.inFlight ∧ s.age s.head < s.age p then none else s.entry p) := by
  by_cases hop : e.op = .beq
  · have hbeq : s.sideEffect e = retireBeq s e := by simp [State.sideEffect, hop]
    rw [hbeq, retireBeq]
    split
    · exact .inr (State.mispredict_queue { s with branches := s.branches + 1 } e)
    · exact .inl ⟨rfl, rfl⟩
  · obtain ⟨-, -, -, -, -, -, -, -, -, hrest⟩ := s.sideEffect_frame e
    obtain ⟨-, hrob, htail, -⟩ := hrest hop
    exact .inl ⟨htail, hrob⟩

/-- The state in which Commit performs the side effect: its head entry is Committed (R32, R195). -/
def State.headCommitted (s : State) : State := s.modifyEntry s.head fun e => { e with phase := .committed }

theorem State.seqAt_headCommitted (s : State) (p : Nat) : s.headCommitted.seqAt p = s.seqAt p :=
  s.seqAt_modifyEntry s.head p fun _ => rfl

/-- Retiring the head stamps its record with the current cycle, and no other record. -/
theorem State.commitAt_retire (s : State) (e : RobEntry) {i a : Nat} (h : (s.retire e).commitAt i = some a) :
    (i = e.seq ∧ a = s.cycle) ∨ s.commitAt i = some a := by
  obtain ⟨-, -, -, hcycle, -, -, -, -, htrace, -⟩ := s.headCommitted.sideEffect_frame e
  have hstamp : (s.retire e).commitAt i = ((s.headCommitted.sideEffect e).stamp e.seq .committed).commitAt i :=
    State.commitAt_congr (by simp [State.retire, State.headCommitted]) i
  rcases State.commitAt_stamp_committed _ _ (hstamp.symm.trans h) with ⟨hi, ha⟩ | hold
  · exact .inl ⟨hi, ha.trans hcycle⟩
  · exact .inr ((State.commitAt_congr (s := s) htrace i).symm.trans hold)

theorem State.tail_retire (s : State) (e : RobEntry) :
    (s.retire e).tail = (s.headCommitted.sideEffect e).tail := by
  simp [State.retire, State.headCommitted]

/-- Retiring the head empties its slot, besides what the side effect does to the slots. -/
theorem State.seqAt_retire (s : State) (e : RobEntry) (p : Nat) :
    (s.retire e).seqAt p = if p = s.head then none else (s.headCommitted.sideEffect e).seqAt p := by
  obtain ⟨-, hhead, -⟩ := s.headCommitted.sideEffect_frame e
  have hh : (s.headCommitted.sideEffect e).head = s.head := hhead
  rw [State.retire, State.seqAt_recomputeSpec, State.seqAt_popHead]
  simp only [State.clearMapping_head, State.stamp_head]
  rw [← State.headCommitted, hh]
  congr 1
  exact State.seqAt_congr (by simp) p

/-- Retiring the head: no slot gains an instruction and the head loses its own; `tail` stays, or it is put just past the
head and everything in flight is squashed. -/
theorem State.retire_queue (s : State) (e : RobEntry) :
    (∀ p n, (s.retire e).seqAt p = some n → p ≠ s.head ∧ s.seqAt p = some n) ∧
      ((s.retire e).tail = s.tail ∨
        (s.retire e).tail = (s.head + 1) % s.n ∧
          ∀ p n, (s.retire e).seqAt p = some n → ¬(p ∈ s.inFlight ∧ s.age s.head < s.age p)) := by
  rcases s.headCommitted.sideEffect_queue e with ⟨htail, hrob⟩ | ⟨htail, hentry⟩
  · refine ⟨fun p n h => ?_, .inl ((s.tail_retire e).trans htail)⟩
    rw [s.seqAt_retire e p, State.seqAt_congr hrob, State.seqAt_headCommitted] at h
    split at h
    · cases h
    · next hp => exact ⟨hp, h⟩
  · have hkept : ∀ p n, (s.retire e).seqAt p = some n →
        p ≠ s.head ∧ ¬(p ∈ s.inFlight ∧ s.age s.head < s.age p) ∧ s.seqAt p = some n := by
      intro p n h
      rw [s.seqAt_retire e p, State.seqAt, hentry] at h
      split at h
      · cases h
      · next hp =>
        split at h
        · cases h
        · next hyoung => exact ⟨hp, hyoung, (s.seqAt_headCommitted p).symm.trans h⟩
    refine ⟨fun p n h => ?_, .inr ⟨(s.tail_retire e).trans htail, fun p n h => ?_⟩⟩
    · obtain ⟨hp, -, hs⟩ := hkept p n h
      exact ⟨hp, hs⟩
    · obtain ⟨-, hyoung, -⟩ := hkept p n h
      exact hyoung

/-! ## The invariant -/

/-- What keeps retirement in program order: the queue holds sequence numbers that rise with age and lie above those
of all committed instructions, and the `committed` stamps rise with the sequence number. -/
structure RetireOrder (s : State) : Prop where
  headLt : s.head < s.n
  tailLt : s.tail < s.n
  inFlight : ∀ p n, s.seqAt p = some n → s.InFlight p
  issued : ∀ p n, s.seqAt p = some n → n < s.nseq
  seqRises : ∀ p q m n, s.seqAt p = some m → s.seqAt q = some n → s.age p < s.age q → m < n
  past : ∀ i a, s.commitAt i = some a → i < s.nseq ∧ a ≤ s.cycle
  retiredOlder : ∀ p n i a, s.seqAt p = some n → s.commitAt i = some a → i < n
  retiredInOrder : ∀ i j a b, i < j → s.commitAt i = some a → s.commitAt j = some b → a < b

/-- `t` has the queue, the counters and the `committed` stamps of `s`: all that `RetireOrder` reads. -/
structure SameOrder (s t : State) : Prop where
  cfg : t.cfg = s.cfg
  head : t.head = s.head
  tail : t.tail = s.tail
  cycle : t.cycle = s.cycle
  nseq : t.nseq = s.nseq
  seqAt : ∀ p, t.seqAt p = s.seqAt p
  commitAt : ∀ i, t.commitAt i = s.commitAt i

theorem SameOrder.refl (s : State) : SameOrder s s := ⟨rfl, rfl, rfl, rfl, rfl, fun _ => rfl, fun _ => rfl⟩

theorem SameOrder.trans {s t u : State} (h : SameOrder s t) (h' : SameOrder t u) : SameOrder s u where
  cfg := h'.cfg.trans h.cfg
  head := h'.head.trans h.head
  tail := h'.tail.trans h.tail
  cycle := h'.cycle.trans h.cycle
  nseq := h'.nseq.trans h.nseq
  seqAt p := (h'.seqAt p).trans (h.seqAt p)
  commitAt i := (h'.commitAt i).trans (h.commitAt i)

theorem RetireOrder.of_sameOrder {s t : State} (h : RetireOrder s) (hst : SameOrder s t) : RetireOrder t := by
  obtain ⟨hcfg, hhead, htail, hcycle, hnseq, hseqAt, hcommitAt⟩ := hst
  have hn : t.n = s.n := congrArg Config.robSize hcfg
  have hage : ∀ p, t.age p = s.age p := fun p => by rw [State.age, hn, hhead, State.age]
  have hcount : t.count = s.count := by rw [State.count, hn, hhead, htail, State.count]
  exact
    { headLt := by simpa only [hhead, hn] using h.headLt
      tailLt := by simpa only [htail, hn] using h.tailLt
      inFlight := by simpa only [hseqAt, State.InFlight, hn, hage, hcount] using h.inFlight
      issued := by simpa only [hseqAt, hnseq] using h.issued
      seqRises := by simpa only [hseqAt, hage] using h.seqRises
      past := by simpa only [hcommitAt, hnseq, hcycle] using h.past
      retiredOlder := by simpa only [hseqAt, hcommitAt] using h.retiredOlder
      retiredInOrder := by simpa only [hcommitAt] using h.retiredInOrder }

/-! ## The stages that leave the order alone -/

theorem State.stampEntry_sameOrder (s : State) (p : Nat) {f : Stamp} (hf : f ≠ .committed) :
    SameOrder s (s.stampEntry p f) where
  cfg := by simp
  head := by simp
  tail := by simp
  cycle := by simp
  nseq := by simp
  seqAt := State.seqAt_congr (by simp)
  commitAt i := s.commitAt_stampEntry p i hf

theorem State.setStation_sameOrder (s : State) (c : Opcode) (k : Nat) (st : Option Station) :
    SameOrder s (s.setStation c k st) := ⟨rfl, rfl, rfl, rfl, rfl, fun _ => rfl, fun _ => rfl⟩

theorem State.modifyEntry_sameOrder (s : State) (p : Nat) {f : RobEntry → RobEntry} (hf : ∀ e, (f e).seq = e.seq) :
    SameOrder s (s.modifyEntry p f) := ⟨rfl, rfl, rfl, rfl, rfl, fun q => s.seqAt_modifyEntry p q hf, fun _ => rfl⟩

theorem State.writeArbitrate_sameOrder (s : State) : SameOrder s s.writeArbitrate := by
  rcases s.writeArbitrate_cases with ⟨-, h⟩ | ⟨c, -, h⟩
  · rw [h]
    exact .refl s
  · have hlatch : SameOrder s { s with cdb := some { p := c.rob, v := c.result.value, a := c.result.addr } } :=
      ⟨rfl, rfl, rfl, rfl, rfl, fun _ => rfl, fun _ => rfl⟩
    rw [h]
    exact (hlatch.trans (State.stampEntry_sameOrder _ _ (by decide))).trans (State.setStation_sameOrder _ _ _ _)

theorem State.countDown_sameOrder (s : State) (c : Opcode) (k : Nat) (st : Station) (vj vk : Word) :
    SameOrder s (s.countDown c k st vj vk) := by
  unfold State.countDown
  split
  · exact (s.setStation_sameOrder _ _ _).trans (State.stampEntry_sameOrder _ _ (by decide))
  · exact s.setStation_sameOrder _ _ _

theorem State.beginExecution_sameOrder (s : State) (st : Station) : SameOrder s (s.beginExecution st) :=
  (s.stampEntry_sameOrder _ (by decide)).trans (State.modifyEntry_sameOrder _ _ fun _ => rfl)

theorem State.visit_sameOrder (s : State) (id : Opcode × Nat) : SameOrder s (s.visit id) := by
  rcases s.visit_cases id.1 id.2 with h | ⟨st, vj, vk, -, -, -, -, ⟨-, h⟩ | ⟨-, -, h⟩⟩ <;> rw [h]
  · exact .refl s
  · exact s.countDown_sameOrder _ _ _ _ _
  · exact (s.beginExecution_sameOrder st).trans (State.countDown_sameOrder _ _ _ _ _ _)

theorem State.execute_sameOrder (s : State) : SameOrder s s.execute :=
  State.execute_keeps (P := SameOrder s) (fun t id ht => ht.trans (t.visit_sameOrder id)) s (.refl s)

theorem State.writeDeliver_sameOrder (s : State) : SameOrder s s.writeDeliver := by
  rcases s.writeDeliver_cases with ⟨-, h⟩ | ⟨m, -, h⟩
  · rw [h]
    exact .refl s
  · rw [h]
    exact (s.modifyEntry_sameOrder m.p (f := fun e => RobEntry.deliver e m) fun _ => rfl).trans
      ⟨rfl, rfl, rfl, rfl, rfl, fun _ => rfl, fun _ => rfl⟩

theorem State.runControl_sameOrder (s : State) : SameOrder s s.runControl := by
  rcases s.runControl_cases with ⟨-, h⟩ | ⟨-, -, h⟩ | ⟨-, -, h⟩ <;> rw [h]
  · exact ⟨rfl, rfl, rfl, rfl, rfl, fun _ => rfl, fun _ => rfl⟩
  · exact ⟨rfl, rfl, rfl, rfl, rfl, fun _ => rfl, fun _ => rfl⟩
  · exact .refl s

theorem State.afterIssue_sameOrder (s : State) : SameOrder s s.afterIssue :=
  s.writeDeliver_sameOrder.trans (State.runControl_sameOrder _)

/-! ## Commit -/

/-- Where the head moves on by one, every other slot is one younger than before. -/
theorem State.age_of_head_succ {s t : State} (hn : t.n = s.n) (ht : t.head = (s.head + 1) % s.n)
    (hh : s.head < s.n) {p : Nat} (hp : p < s.n) (hne : p ≠ s.head) : t.age p + 1 = s.age p := by
  have hth : t.head < t.n := by rw [ht, hn]; exact Nat.mod_lt _ (by omega)
  rw [s.age_eq hh hp, t.age_eq hth (hn ▸ hp), hn, ht]
  rcases Nat.lt_or_ge (s.head + 1) s.n with h | h
  · rw [Nat.mod_eq_of_lt h]
    split_ifs <;> omega
  · rw [show s.head + 1 = s.n by omega, Nat.mod_self]
    split_ifs <;> omega

/-- Retiring the head keeps the order, where every earlier commit lies before the current cycle. -/
theorem RetireOrder.retire {s : State} (h : RetireOrder s) (hpast : ∀ i a, s.commitAt i = some a → a < s.cycle)
    {e : RobEntry} (hne : s.head ≠ s.tail) (he : s.entry s.head = some e) : RetireOrder (s.retire e) := by
  obtain ⟨hcfg, -, hcycle, hnseq, -, -, -, hhead⟩ := s.retire_frame e
  obtain ⟨hkept, htail⟩ := s.retire_queue e
  have hpos : 0 < s.n := Nat.zero_lt_of_lt h.headLt
  have hn : (s.retire e).n = s.n := congrArg Config.robSize hcfg
  have hseq : s.seqAt s.head = some e.seq := by rw [State.seqAt, he]; rfl
  have hage : ∀ p, p < s.n → p ≠ s.head → (s.retire e).age p + 1 = s.age p := fun p hp hph =>
    State.age_of_head_succ hn hhead h.headLt hp hph
  have hyounger : ∀ p n, (s.retire e).seqAt p = some n →
      s.seqAt p = some n ∧ s.InFlight p ∧ (s.retire e).age p + 1 = s.age p := by
    intro p n hp
    obtain ⟨hph, hs⟩ := hkept p n hp
    have hfl := h.inFlight p n hs
    exact ⟨hs, hfl, hage p hfl.1 hph⟩
  have hheadOldest : ∀ p n, (s.retire e).seqAt p = some n → e.seq < n := by
    intro p n hp
    obtain ⟨hs, -, ha⟩ := hyounger p n hp
    exact h.seqRises _ _ _ _ hseq hs (by rw [s.age_head h.headLt]; omega)
  refine { headLt := ?_, tailLt := ?_, inFlight := ?_, issued := ?_, seqRises := ?_, past := ?_,
           retiredOlder := ?_, retiredInOrder := ?_ }
  · rw [hn, hhead]
    exact Nat.mod_lt _ hpos
  · rw [hn]
    rcases htail with htail | ⟨htail, -⟩
    · exact htail ▸ h.tailLt
    · exact htail ▸ Nat.mod_lt _ hpos
  · intro p n hp
    obtain ⟨hs, hfl, ha⟩ := hyounger p n hp
    refine ⟨hn ▸ hfl.1, ?_⟩
    rcases htail with htail | ⟨-, hsquashed⟩
    · have hcount : (s.retire e).age s.tail + 1 = s.age s.tail := hage s.tail h.tailLt (Ne.symm hne)
      have hlt : s.age p < s.age s.tail := hfl.2
      show (s.retire e).age p < (s.retire e).age (s.retire e).tail
      rw [htail]
      omega
    · refine absurd ⟨(s.mem_inFlight h.headLt p).mpr hfl, ?_⟩ (hsquashed p n hp)
      rw [s.age_head h.headLt]
      omega
  · intro p n hp
    obtain ⟨hs, -, -⟩ := hyounger p n hp
    exact hnseq ▸ h.issued p n hs
  · intro p q m n hp hq hlt
    obtain ⟨hsp, -, hap⟩ := hyounger p m hp
    obtain ⟨hsq, -, haq⟩ := hyounger q n hq
    exact h.seqRises p q m n hsp hsq (by omega)
  · intro i a hi
    rw [hnseq, hcycle]
    rcases s.commitAt_retire e hi with ⟨rfl, rfl⟩ | hold
    · exact ⟨h.issued _ _ hseq, le_refl _⟩
    · exact h.past i a hold
  · intro p n i a hp hi
    rcases s.commitAt_retire e hi with ⟨rfl, -⟩ | hold
    · exact hheadOldest p n hp
    · exact h.retiredOlder p n i a (hyounger p n hp).1 hold
  · intro i j a b hij hi hj
    rcases s.commitAt_retire e hi with ⟨rfl, rfl⟩ | hi <;> rcases s.commitAt_retire e hj with ⟨rfl, rfl⟩ | hj
    · exact absurd hij (lt_irrefl _)
    · exact absurd (h.retiredOlder _ _ _ _ hseq hj) (by omega)
    · exact hpast i a hi
    · exact h.retiredInOrder i j a b hij hi hj

/-- Commit in the next cycle keeps the order. -/
theorem RetireOrder.commit_nextCycle {s : State} (h : RetireOrder s) :
    RetireOrder (State.commit { s with cycle := s.cycle + 1 }) := by
  have hnext : RetireOrder { s with cycle := s.cycle + 1 } :=
    { h with past := fun i a hi => ⟨(h.past i a hi).1, Nat.le_succ_of_le (h.past i a hi).2⟩ }
  rcases State.commit_cases { s with cycle := s.cycle + 1 } with ⟨-, hc⟩ | ⟨e, hready, hc⟩
  · rw [hc]
    exact hnext
  · obtain ⟨hne, he, -, -⟩ := (State.readyHead_eq_some _ e).mp hready
    rw [hc]
    exact hnext.retire (fun i a hi => Nat.lt_succ_of_le (h.past i a hi).2) hne he

theorem RetireOrder.beforeIssue {s : State} (h : RetireOrder s) : RetireOrder s.beforeIssue :=
  (h.commit_nextCycle.of_sameOrder (State.writeArbitrate_sameOrder _)).of_sameOrder (State.execute_sameOrder _)

/-! ## Issue -/

/-- An allocation into a buffer that is not full makes one more slot in flight. -/
theorem State.count_allocate (s : State) (q : IssueRequest) (k : Nat) (hh : s.head < s.n) (ht : s.tail < s.n)
    (hfull : s.robFull = false) : (s.allocate q k).count = s.count + 1 := by
  have hne : s.count + 1 ≠ s.n := fun hc => by
    rw [(s.robFull_iff hh ht).mpr hc] at hfull
    cases hfull
  have hlt : s.count + 1 < s.n := by have := s.count_lt (Nat.zero_lt_of_lt hh); omega
  have htail : (s.tail + 1) % s.n = (s.head + (s.count + 1)) % s.n := by
    rw [← s.slot_age hh ht]
    show ((s.head + s.count) % s.n + 1) % s.n = _
    rw [Nat.mod_add_mod, Nat.add_assoc]
  calc (s.allocate q k).count
      = s.age ((s.tail + 1) % s.n) := rfl
    _ = s.age ((s.head + (s.count + 1)) % s.n) := by rw [htail]
    _ = s.count + 1 := s.age_slot hh hlt

theorem RetireOrder.allocate {s : State} (h : RetireOrder s) (q : IssueRequest) (k : Nat)
    (hfull : s.robFull = false) : RetireOrder (s.allocate q k) := by
  have hcount := s.count_allocate q k h.headLt h.tailLt hfull
  refine { headLt := h.headLt, tailLt := Nat.mod_lt _ (Nat.zero_lt_of_lt h.headLt), inFlight := ?_, issued := ?_,
           seqRises := ?_, past := ?_, retiredOlder := ?_, retiredInOrder := ?_ }
  · intro p n hp
    rcases s.seqAt_allocate q k hp with ⟨rfl, -⟩ | hold
    · exact ⟨h.tailLt, hcount ▸ Nat.lt_succ_self s.count⟩
    · obtain ⟨hlt, ha⟩ := h.inFlight p n hold
      exact ⟨hlt, hcount ▸ Nat.lt_succ_of_lt ha⟩
  · intro p n hp
    rcases s.seqAt_allocate q k hp with ⟨-, rfl⟩ | hold
    · exact Nat.lt_succ_self _
    · exact Nat.lt_succ_of_lt (h.issued p n hold)
  · intro p p' m n hp hp' hlt
    have hlt' : s.age p < s.age p' := hlt
    rcases s.seqAt_allocate q k hp' with ⟨rfl, rfl⟩ | hold'
    · rcases s.seqAt_allocate q k hp with ⟨rfl, -⟩ | hold
      · exact absurd hlt' (lt_irrefl _)
      · exact h.issued p m hold
    · rcases s.seqAt_allocate q k hp with ⟨rfl, -⟩ | hold
      · exact absurd (hlt'.trans (h.inFlight p' n hold').2) (lt_irrefl _)
      · exact h.seqRises p p' m n hold hold' hlt'
  · intro i a hi
    rw [s.commitAt_allocate] at hi
    obtain ⟨hi', ha⟩ := h.past i a hi
    exact ⟨Nat.lt_succ_of_lt hi', ha⟩
  · intro p n i a hp hi
    rw [s.commitAt_allocate] at hi
    rcases s.seqAt_allocate q k hp with ⟨-, rfl⟩ | hold
    · exact (h.past i a hi).1
    · exact h.retiredOlder p n i a hold hi
  · intro i j a b hij hi hj
    rw [s.commitAt_allocate] at hi hj
    exact h.retiredInOrder i j a b hij hi hj

theorem RetireOrder.issue {s : State} (h : RetireOrder s) (q : IssueRequest) : RetireOrder (s.issue q) := by
  rcases s.issue_cases q with ⟨hs, -⟩ | ⟨k, -, hfull, -, hs⟩ <;> rw [hs]
  · exact h
  · exact h.allocate q k hfull

/-! ## Every reached state -/

theorem RetireOrder.step {s t : State} (h : RetireOrder s) (hst : Machine.step s = .next t) : RetireOrder t := by
  rcases step_cases hst with ⟨-, ht⟩ | ⟨-, -, ⟨-, ht⟩ | ⟨i, -, -, ht⟩⟩ <;> rw [ht]
  · exact h
  · exact h.beforeIssue.of_sameOrder s.beforeIssue.afterIssue_sameOrder
  · exact (h.beforeIssue.issue _).of_sameOrder (State.afterIssue_sameOrder _)

theorem State.entry_initial (c : Config) (p : Nat) : (State.initial c).entry p = none := by
  simp only [State.entry, State.initial, List.getD_eq_getElem?_getD, List.getElem?_replicate]
  split <;> rfl

/-- At a start nothing is in flight and the trace is empty. -/
theorem retireOrder_started {c : Config} (hc : startCheck c = none) : RetireOrder (State.started c) := by
  have hrob : 1 ≤ c.robSize := by
    by_contra hlt
    simp [startCheck, Config.robSizeOk, hlt] at hc
  have hseqAt : ∀ p, (State.initial c).seqAt p = none := fun p => by rw [State.seqAt, State.entry_initial]; rfl
  have hcommitAt : ∀ i, (State.initial c).commitAt i = none := fun _ => rfl
  have hinitial : RetireOrder (State.initial c) := by
    constructor
    case headLt => exact hrob
    case tailLt => exact hrob
    all_goals simp [hseqAt, hcommitAt]
  rw [started_of_check hc]
  exact hinitial.of_sameOrder ⟨rfl, rfl, rfl, rfl, rfl, fun _ => rfl, fun _ => rfl⟩

theorem Reached.retireOrder {c : Config} {t : State} (h : Reached c t) : RetireOrder t :=
  reached_keeps retireOrder_started (fun _ _ hs hst => hs.step hst) h

/-- Settles O58: the stamps of a reached state rise with the sequence number, which is a record's place in the trace. -/
theorem retirementInProgramOrder : Obligations.RetirementInProgramOrder := by
  intro c t ht m n r r' a b hmn hm hn ha hb
  have hcommitM : t.commitAt m = some a := by simp [State.commitAt, hm, ha]
  have hcommitN : t.commitAt n = some b := by simp [State.commitAt, hn, hb]
  exact ht.retireOrder.retiredInOrder m n a b hmn hcommitM hcommitN

end Sys2Proof.Machine
end

section
/-! The state after reset (R48). -/

namespace Sys2Proof.Machine

/-- Settles O42: both sides evaluate to one record of plain data. -/
theorem resetIsDefault : Obligations.ResetIsDefault := by
  unfold Obligations.ResetIsDefault
  rfl

end Sys2Proof.Machine
end

section
/-! Laws of the queue and of the pool that the invariants of the tick are proved with: the slots after `popHead`, the
`spec` bit and the youngest writer as statements about the entries in flight, the number of stations of an entry
(10_state.md R34 to R37, R44). -/

namespace Sys2Proof.Machine

/-! ## The slots -/

/-- Emptying a slot needs no bound: a slot past the buffer is Empty. -/
theorem State.entry_setEntry_none (s : State) (p q : Nat) :
    (s.setEntry p none).entry q = if q = p then none else s.entry q := by
  rw [State.entry_setEntry]
  by_cases hq : q = p
  · subst hq
    by_cases hl : q < s.rob.length
    · simp [hl]
    · simp [hl, State.entry, List.getD_eq_getElem?_getD]
  · simp [hq]

theorem State.entry_popHead (s : State) (p : Nat) :
    s.popHead.entry p = if p = s.head then none else s.entry p :=
  (State.entry_congr rfl p).trans (s.entry_setEntry_none s.head p)

/-- The slot at `tail` is the one of age `count`. -/
theorem State.age_tail (s : State) : s.age s.tail = s.count := rfl

theorem State.age_congr {s t : State} (hcfg : t.cfg = s.cfg) (hhead : t.head = s.head) (p : Nat) :
    t.age p = s.age p := by
  rw [State.age, State.n, hcfg, hhead, State.age, State.n]

theorem State.count_congr {s t : State} (hcfg : t.cfg = s.cfg) (hhead : t.head = s.head) (htail : t.tail = s.tail) :
    t.count = s.count := by
  rw [← t.age_tail, State.age_congr hcfg hhead, htail, s.age_tail]

theorem State.inFlight_congr {s t : State} (hcfg : t.cfg = s.cfg) (hhead : t.head = s.head)
    (htail : t.tail = s.tail) : t.inFlight = s.inFlight := by
  rw [State.inFlight, State.n, State.count_congr hcfg hhead htail, hcfg, hhead, State.inFlight, State.n]

/-- The ids in flight are listed oldest first (R35). -/
theorem State.inFlight_pairwise_age (s : State) (hh : s.head < s.n) :
    s.inFlight.Pairwise fun p q => s.age p < s.age q := by
  rw [State.inFlight, List.pairwise_map]
  refine List.pairwise_lt_range.imp_of_mem ?_
  intro a b ha hb hab
  have hlt := s.count_lt (Nat.zero_lt_of_lt hh)
  rw [s.age_slot hh ((List.mem_range.mp ha).trans hlt), s.age_slot hh ((List.mem_range.mp hb).trans hlt)]
  exact hab

/-! ## The `spec` bit (R34) -/

/-- The `spec` bit of an entry says that it is a `BEQ` or that one of the given entries speculates. -/
theorem State.specBit_eq_true (s : State) (op : Opcode) (l : List Nat) :
    s.specBit op l = true ↔ op = .beq ∨ ∃ p ∈ l, ∃ o, s.opAt p = some o ∧ speculates o = true := by
  simp only [State.specBit, State.anySpeculates, Bool.or_eq_true, beq_iff_eq, List.any_eq_true, Option.any_eq_true]

theorem State.mem_olderThan (s : State) (hh : s.head < s.n) (p q : Nat) :
    q ∈ s.olderThan p ↔ s.InFlight q ∧ s.age q < s.age p := by
  simp [State.olderThan, s.mem_inFlight hh]

/-- The `spec` bit reads only the opcodes of the given entries. -/
theorem State.specBit_congr {s t : State} (op : Opcode) {l m : List Nat}
    (h : ∀ o, (∃ p ∈ m, t.opAt p = some o) ↔ ∃ p ∈ l, s.opAt p = some o) : t.specBit op m = s.specBit op l := by
  rw [Bool.eq_iff_iff, State.specBit_eq_true, State.specBit_eq_true]
  refine or_congr_right ?_
  constructor
  · rintro ⟨p, hp, o, ho, hs⟩
    obtain ⟨q, hq, hqo⟩ := (h o).mp ⟨p, hp, ho⟩
    exact ⟨q, hq, o, hqo, hs⟩
  · rintro ⟨p, hp, o, ho, hs⟩
    obtain ⟨q, hq, hqo⟩ := (h o).mpr ⟨p, hp, ho⟩
    exact ⟨q, hq, o, hqo, hs⟩

/-- States with one queue and one opcode in each slot give an entry one `spec` bit. -/
theorem State.specBit_olderThan_congr {s t : State} (hcfg : t.cfg = s.cfg) (hhead : t.head = s.head)
    (htail : t.tail = s.tail) (hop : ∀ p, t.opAt p = s.opAt p) (op : Opcode) (p : Nat) :
    t.specBit op (t.olderThan p) = s.specBit op (s.olderThan p) := by
  have hlist : t.olderThan p = s.olderThan p := by
    simp only [State.olderThan, State.inFlight_congr hcfg hhead htail, State.age_congr hcfg hhead]
  exact State.specBit_congr op fun o => by simp only [hlist, hop]

theorem State.opAt_recomputeSpec (s : State) (p : Nat) : s.recomputeSpec.opAt p = s.opAt p := by
  rw [State.opAt, State.entry_recomputeSpec, State.opAt]
  cases s.entry p <;> rfl

/-! ## The youngest writer (R36, R37) -/

/-- The slot holds an entry whose destination is register `r`. -/
def State.WritesReg (s : State) (r : Reg) (p : Nat) : Prop := ∃ e, s.entry p = some e ∧ e.dest = .register r

theorem State.writes_iff (s : State) (r : Reg) (p : Nat) : s.writes r p = true ↔ s.WritesReg r p := by
  simp [State.writes, State.WritesReg, Option.any_eq_true]

/-- In a list that falls in `age`, `find?` answers the member with the property that is greatest in `age`. -/
theorem find?_eq_some_of_falling (age : Nat → Nat) (P : Nat → Bool) (x : Nat) :
    ∀ l : List Nat, l.Pairwise (fun a b => age b < age a) →
      (l.find? P = some x ↔ x ∈ l ∧ P x = true ∧ ∀ y ∈ l, P y = true → age y ≤ age x)
  | [], _ => by simp
  | a :: rest, h => by
    obtain ⟨ha, hrest⟩ := List.pairwise_cons.mp h
    cases hP : P a with
    | true =>
      rw [List.find?_cons_of_pos hP, Option.some_inj]
      constructor
      · rintro rfl
        refine ⟨List.mem_cons_self, hP, fun y hy _ => ?_⟩
        rcases List.mem_cons.mp hy with rfl | hy
        · exact le_refl _
        · exact (ha y hy).le
      · rintro ⟨hx, _, hmax⟩
        rcases List.mem_cons.mp hx with rfl | hx
        · rfl
        · exact absurd (hmax a List.mem_cons_self hP) (Nat.not_le.mpr (ha x hx))
    | false =>
      rw [List.find?_cons_of_neg (by simp [hP]), find?_eq_some_of_falling age P x rest hrest]
      constructor
      · rintro ⟨hx, hPx, hmax⟩
        refine ⟨List.mem_cons_of_mem _ hx, hPx, fun y hy hPy => ?_⟩
        rcases List.mem_cons.mp hy with rfl | hy
        · simp [hP] at hPy
        · exact hmax y hy hPy
      · rintro ⟨hx, hPx, hmax⟩
        rcases List.mem_cons.mp hx with rfl | hx
        · simp [hP] at hPx
        · exact ⟨hx, hPx, fun y hy => hmax y (List.mem_cons_of_mem _ hy)⟩

/-- The youngest writer of `r` is the slot in flight with destination `r` that no other such slot is younger than. -/
theorem State.youngestWriter_eq_some (s : State) (hh : s.head < s.n) (r : Reg) (p : Nat) :
    s.youngestWriter r = some p ↔
      r ≠ 0 ∧ s.InFlight p ∧ s.WritesReg r p ∧ ∀ q, s.InFlight q → s.WritesReg r q → s.age q ≤ s.age p := by
  unfold State.youngestWriter
  by_cases hr : r = 0
  · simp [hr]
  · have hfall := List.pairwise_reverse.mpr (s.inFlight_pairwise_age hh)
    rw [if_neg hr, find?_eq_some_of_falling s.age (s.writes r) p _ hfall]
    simp [hr, s.mem_inFlight hh, s.writes_iff]

/-! ## The stations of an entry (R44) -/

/-- The station is busy and its backlink is `p`. -/
def linked (p : Nat) (o : Option Station) : Bool := o.any fun st => st.rob == p

@[simp] theorem linked_none (p : Nat) : linked p none = false := rfl

@[simp] theorem linked_some (p : Nat) (st : Station) : linked p (some st) = (st.rob == p) := rfl

/-- The stations of an entry, counted class by class. -/
theorem State.stationsOf_eq_sum (s : State) (p : Nat) :
    s.stationsOf p = (Opcode.all.map fun c => (s.rs.get c).countP (linked p)).sum := by
  have hclass : ∀ l : List (Option Station),
      ((l.filterMap id).filter fun st => st.rob == p).length = l.countP (linked p) := by
    intro l
    induction l with
    | nil => rfl
    | cons o rest ih =>
      rw [List.countP_cons, ← ih]
      cases o with
      | none => simp
      | some st => by_cases h : st.rob = p <;> simp [h]
  rw [State.stationsOf, State.busyStations, List.filter_flatMap, List.length_flatMap]
  simp only [hclass]

theorem State.stationsOf_congr {s t : State} (h : t.rs = s.rs) (p : Nat) : t.stationsOf p = s.stationsOf p := by
  simp [State.stationsOf, State.busyStations, h]

theorem State.stationsOf_pos (s : State) (p : Nat) :
    0 < s.stationsOf p ↔ ∃ c k st, s.station c k = some st ∧ st.rob = p := by
  simp only [State.stationsOf, List.length_pos_iff_exists_mem, List.mem_filter, s.mem_busyStations, beq_iff_eq]
  constructor
  · rintro ⟨st, ⟨c, k, hst⟩, hp⟩
    exact ⟨c, k, st, hst, hp⟩
  · rintro ⟨c, k, st, hst, hp⟩
    exact ⟨st, ⟨c, k, hst⟩, hp⟩

theorem State.stationsOf_eq_zero (s : State) (p : Nat) :
    s.stationsOf p = 0 ↔ ∀ c k st, s.station c k = some st → st.rob ≠ p := by
  have hpos := s.stationsOf_pos p
  constructor
  · intro h0 c k st hst hp
    exact absurd (hpos.mpr ⟨c, k, st, hst, hp⟩) (by omega)
  · intro h
    by_contra h0
    obtain ⟨c, k, st, hst, hp⟩ := hpos.mp (Nat.pos_of_ne_zero h0)
    exact h c k st hst hp

/-- Replacing the content of one station. -/
theorem State.stationsOf_setStation (s : State) {c : Opcode} {k : Nat} (hk : k < (s.rs.get c).length)
    (o : Option Station) (p : Nat) :
    (s.setStation c k o).stationsOf p + (if linked p (s.station c k) then 1 else 0) =
      s.stationsOf p + if linked p o then 1 else 0 := by
  have hget : s.station c k = (s.rs.get c)[k] := by
    simp [State.station, List.getD_eq_getElem?_getD, List.getElem?_eq_getElem hk]
  have hclass : ((s.rs.get c).set k o).countP (linked p) + (if linked p (s.station c k) then 1 else 0) =
      (s.rs.get c).countP (linked p) + if linked p o then 1 else 0 := by
    have hpos : linked p (s.rs.get c)[k] = true → 0 < (s.rs.get c).countP (linked p) := fun h =>
      List.countP_pos_iff.mpr ⟨_, List.getElem_mem hk, h⟩
    rw [hget, List.countP_set hk]
    split_ifs with h1 h2 h2
    · have := hpos h1
      omega
    · have := hpos h1
      omega
    · omega
    · omega
  rw [State.stationsOf_eq_sum, State.stationsOf_eq_sum]
  simp only [State.setStation_rs, PerClass.get_set]
  cases c <;> simp [Opcode.all] <;> omega

/-- Two busy stations of an entry that has at most one are the same station. -/
theorem State.station_unique {s : State} {c c' : Opcode} {k k' : Nat} {st st' : Station}
    (hst : s.station c k = some st) (hst' : s.station c' k' = some st') (hrob : st'.rob = st.rob)
    (hone : s.stationsOf st.rob ≤ 1) : c' = c ∧ k' = k := by
  by_contra hne
  have hleft : (s.release c k).stationsOf st.rob + 1 = s.stationsOf st.rob := by
    simpa [hst, State.release] using s.stationsOf_setStation (s.station_lt hst) none st.rob
  have hstill : (s.release c k).station c' k' = some st' := by rw [State.station_release, if_neg hne, hst']
  have hpos := ((s.release c k).stationsOf_pos st.rob).mpr ⟨c', k', st', hstill, hrob⟩
  omega

/-- A change of every busy station that keeps its backlink keeps the number of stations of every entry. -/
theorem State.stationsOf_mapStations (s : State) {g : Station → Station} (hg : ∀ st, (g st).rob = st.rob) (p : Nat) :
    (s.mapStations (Option.map g)).stationsOf p = s.stationsOf p := by
  have hlinked : linked p ∘ Option.map g = linked p := by
    funext o
    cases o <;> simp [hg]
  rw [State.stationsOf_eq_sum, State.stationsOf_eq_sum]
  simp only [State.mapStations_rs, PerClass.get_map, List.countP_map, hlinked]

end Sys2Proof.Machine
end

section
/-! What Commit does to each piece of the state: the retirement of the head with its side effect, where it mispredicts
and where it does not (45_pipeline_driver.md R195, R196, R212). -/

namespace Sys2Proof.Machine

/-! ## The side effect -/

/-- The opcodes whose retirement writes a register (R195). -/
def writesRegister : List Opcode := [.load, .call, .add, .addi, .nand, .mul]

/-- The four shapes of a side effect (R195). -/
theorem State.sideEffect_cases (s : State) (e : RobEntry) :
    (e.op ∈ writesRegister ∧ s.sideEffect e = s.retireRegister e) ∨
      (e.op = .store ∧ s.sideEffect e = s.retireMemory e) ∨
      (e.op = .ret ∧ s.sideEffect e = retireRet s e) ∨ (e.op = .beq ∧ s.sideEffect e = retireBeq s e) := by
  unfold State.sideEffect
  cases e.op <;>
    simp [writesRegister, retireLoad, retireStore, retireCall, retireAdd, retireAddi, retireNand, retireMul]

theorem State.retireRegister_get (s : State) {e : RobEntry} {r : Reg} {v : Word} (hd : e.dest = .register r)
    (hv : e.value = some v) (q : Reg) :
    (s.retireRegister e).x.get q = if q = r ∧ r ≠ 0 then v else s.x.get q := by
  simp only [State.retireRegister, hd, hv, State.writeReg]
  by_cases hr : r = 0
  · simp [hr]
  · simp [hr]

theorem State.mispredict_frame (s : State) (e : RobEntry) :
    (s.mispredict e).x = s.x ∧ (s.mispredict e).mem = s.mem := by
  obtain ⟨-, hx, hmem, -⟩ := State.squashYoungerThan_frame { s with mispred := s.mispred + 1 } s.head
  unfold State.mispredict
  cases s.branchTarget e.idx <;> exact ⟨hx, hmem⟩

theorem retireBeq_frame (s : State) (e : RobEntry) : (retireBeq s e).x = s.x ∧ (retireBeq s e).mem = s.mem := by
  unfold retireBeq
  split
  · exact State.mispredict_frame { s with branches := s.branches + 1 } e
  · exact ⟨rfl, rfl⟩

theorem retireRet_frame (s : State) (e : RobEntry) : (retireRet s e).x = s.x ∧ (retireRet s e).mem = s.mem := by
  unfold retireRet
  cases e.value <;> exact ⟨rfl, rfl⟩

/-- A side effect changes no register but the entry's destination, other than `R0`, and that to the entry's value
(R21, R195). -/
theorem State.sideEffect_changes_register (s : State) (e : RobEntry) (q : Reg)
    (h : (s.sideEffect e).x.get q ≠ s.x.get q) :
    q ≠ 0 ∧ e.dest = .register q ∧ e.value = some ((s.sideEffect e).x.get q) := by
  rcases s.sideEffect_cases e with ⟨-, hs⟩ | ⟨-, hs⟩ | ⟨-, hs⟩ | ⟨-, hs⟩ <;> rw [hs] at h ⊢
  · cases hd : e.dest with
    | register r =>
      cases hv : e.value with
      | some v =>
        rw [s.retireRegister_get hd hv] at h ⊢
        by_cases hq : q = r ∧ r ≠ 0
        · obtain ⟨rfl, hr⟩ := hq
          simp [hr]
        · simp [hq] at h
      | none => simp [State.retireRegister, hd, hv] at h
    | memory a => simp [State.retireRegister, hd] at h
    | none => simp [State.retireRegister, hd] at h
  · simp at h
  · exact absurd (congrArg (PerReg.get · q) (retireRet_frame s e).1) h
  · exact absurd (congrArg (PerReg.get · q) (retireBeq_frame s e).1) h

theorem State.retireMemory_wf (s : State) (e : RobEntry) (h : Memory.wf s.mem) : Memory.wf (s.retireMemory e).mem := by
  unfold State.retireMemory
  split
  · exact Memory.write_wf h _ _
  · exact h

/-- A side effect keeps the memory in canonical form. -/
theorem State.sideEffect_wf (s : State) (e : RobEntry) (h : Memory.wf s.mem) : Memory.wf (s.sideEffect e).mem := by
  rcases s.sideEffect_cases e with ⟨-, hs⟩ | ⟨-, hs⟩ | ⟨-, hs⟩ | ⟨-, hs⟩ <;> rw [hs]
  · simpa using h
  · exact s.retireMemory_wf e h
  · exact (retireRet_frame s e).2 ▸ h
  · exact (retireBeq_frame s e).2 ▸ h

/-- The entry is a `BEQ` that was predicted not taken and is taken (R212). -/
def RobEntry.mispredicted (e : RobEntry) : Prop := e.op = .beq ∧ e.outcome = some true

/-- Without a misprediction a side effect leaves the pool, the slots, `tail` and the mappings alone. -/
theorem State.sideEffect_keeps (s : State) {e : RobEntry} (h : ¬ e.mispredicted) :
    (s.sideEffect e).rs = s.rs ∧ (s.sideEffect e).rob = s.rob ∧ (s.sideEffect e).tail = s.tail ∧
      (s.sideEffect e).stat = s.stat := by
  by_cases hop : e.op = .beq
  · have hout : e.outcome ≠ some true := fun ho => h ⟨hop, ho⟩
    simp [State.sideEffect, hop, retireBeq, hout]
  · obtain ⟨-, -, -, -, -, -, -, -, -, hrest⟩ := s.sideEffect_frame e
    obtain ⟨hrs, hrob, htail, hstat, -⟩ := hrest hop
    exact ⟨hrs, hrob, htail, hstat⟩

theorem State.sideEffect_mispredicted (s : State) {e : RobEntry} (h : e.mispredicted) :
    s.sideEffect e = State.mispredict { s with branches := s.branches + 1 } e := by
  simp [State.sideEffect, h.1, retireBeq, h.2]

/-! ## Retiring the head -/

/-- The fields that retiring the head leaves as the side effect does. -/
theorem State.retire_of_sideEffect (s : State) (e : RobEntry) :
    (s.retire e).x = (s.headCommitted.sideEffect e).x ∧ (s.retire e).mem = (s.headCommitted.sideEffect e).mem ∧
      (s.retire e).pc = (s.headCommitted.sideEffect e).pc ∧ (s.retire e).rs = (s.headCommitted.sideEffect e).rs ∧
      (s.retire e).branches = (s.headCommitted.sideEffect e).branches ∧
      (s.retire e).mispred = (s.headCommitted.sideEffect e).mispred ∧
      (s.retire e).rob.length = (s.headCommitted.sideEffect e).rob.length := by
  simp [State.retire, State.headCommitted]

/-- Retiring the head stamps its record and no other (R195). -/
theorem State.trace_retire (s : State) (e : RobEntry) :
    (s.retire e).trace = s.trace.modify e.seq fun r => r.set .committed s.cycle := by
  obtain ⟨-, -, -, hcycle, -, -, -, -, htrace, -⟩ := s.headCommitted.sideEffect_frame e
  have h : (s.retire e).trace = ((s.headCommitted.sideEffect e).stamp e.seq .committed).trace := by
    simp [State.retire, State.headCommitted]
  simp only [h, State.stamp_trace, htrace, hcycle]
  rfl

/-- The mapping of the destination is cleared where it still names the id (R195, R196). -/
theorem State.clearMapping_get (s : State) (e : RobEntry) (h : Nat) (q : Reg) :
    (s.clearMapping e h).stat.get q =
      if e.dest = .register q ∧ s.stat.get q = some h then none else s.stat.get q := by
  unfold State.clearMapping
  cases hd : e.dest with
  | register r =>
    by_cases hq : q = r
    · subst hq
      by_cases hs : s.stat.get q = some h <;> simp [hs]
    · by_cases hs : s.stat.get r = some h <;> simp [hs, hq, show ¬ r = q from fun he => hq he.symm]
  | memory a => simp
  | none => simp

/-- The mappings after a retirement, besides what the side effect does to them. -/
theorem State.stat_retire_of_sideEffect (s : State) (e : RobEntry) (q : Reg) :
    (s.retire e).stat.get q =
      if e.dest = .register q ∧ (s.headCommitted.sideEffect e).stat.get q = some s.head then none
      else (s.headCommitted.sideEffect e).stat.get q := by
  have hclear : (s.retire e).stat =
      (({ (s.headCommitted.sideEffect e).stamp e.seq .committed with
          retired := (s.headCommitted.sideEffect e).retired + 1 } : State).clearMapping e s.head).stat := rfl
  rw [hclear, State.clearMapping_get]
  rfl

/-- The slots after a retirement, besides what the side effect does to them: the head is Empty, and every other slot gets
the `spec` bit of R34. -/
theorem State.entry_retire_of_sideEffect (s : State) (e : RobEntry) (p : Nat) :
    (s.retire e).entry p =
      if p = s.head then none else ((s.headCommitted.sideEffect e).entry p).map fun e' =>
        { e' with spec := (s.retire e).specBit e'.op ((s.retire e).olderThan p) } := by
  obtain ⟨-, hhead, -⟩ := s.headCommitted.sideEffect_frame e
  let u : State := (({ (s.headCommitted.sideEffect e).stamp e.seq .committed with
    retired := (s.headCommitted.sideEffect e).retired + 1 } : State).clearMapping e s.head).popHead
  have hu : ∀ q, u.entry q = if q = s.head then none else (s.headCommitted.sideEffect e).entry q := by
    intro q
    have hslots : u.entry q = if q = (s.headCommitted.sideEffect e).head then none
        else (s.headCommitted.sideEffect e).entry q := by
      rw [State.entry_popHead]
      congr 1
      · simp
      · exact State.entry_congr (by simp) q
    rw [hslots, hhead]
    rfl
  have hspec : ∀ op q, u.recomputeSpec.specBit op (u.recomputeSpec.olderThan q) = u.specBit op (u.olderThan q) :=
    State.specBit_olderThan_congr rfl rfl rfl u.opAt_recomputeSpec
  have hretire : s.retire e = u.recomputeSpec := rfl
  rw [hretire, State.entry_recomputeSpec, hu]
  simp only [hspec]
  by_cases hp : p = s.head <;> simp [hp]

/-- The mappings after the retirement of an entry that is not mispredicted. -/
theorem State.stat_retire (s : State) {e : RobEntry} (h : ¬ e.mispredicted) (q : Reg) :
    (s.retire e).stat.get q =
      if e.dest = .register q ∧ s.stat.get q = some s.head then none else s.stat.get q := by
  obtain ⟨-, -, -, hstat⟩ := s.headCommitted.sideEffect_keeps h
  rw [s.stat_retire_of_sideEffect, hstat]
  rfl

/-- The slots after the retirement of an entry that is not mispredicted: the head is Empty, every other slot is kept up to
its `spec` bit. -/
theorem State.entry_retire (s : State) {e : RobEntry} (h : ¬ e.mispredicted) (p : Nat) :
    (s.retire e).entry p = if p = s.head then none else (s.entry p).map fun e' =>
      { e' with spec := (s.retire e).specBit e'.op ((s.retire e).olderThan p) } := by
  obtain ⟨-, hrob, -, -⟩ := s.headCommitted.sideEffect_keeps h
  rw [s.entry_retire_of_sideEffect, State.entry_congr hrob, State.headCommitted, State.entry_modifyEntry]
  by_cases hp : p = s.head <;> simp [hp]

/-! ## Commit and its frame -/

theorem State.commit_of_ready {s : State} {e : RobEntry} (h : s.readyHead = some e) : s.commit = s.retire e := by
  simp [State.commit, h]

/-- Settles O27: each clause is the law of `retire` for its field, the side effect being a register write. -/
theorem commitWritesRegister : Obligations.CommitWritesRegister := by
  intro s e r v rec hready hop hd hv hrec
  have hkeep : ¬ e.mispredicted := fun hm => by simp [hm.1] at hop
  have hside : s.headCommitted.sideEffect e = s.headCommitted.retireRegister e := by
    rcases s.headCommitted.sideEffect_cases e with ⟨-, h⟩ | ⟨ho, -⟩ | ⟨ho, -⟩ | ⟨ho, -⟩
    · exact h
    all_goals simp [ho] at hop
  obtain ⟨hcfg, hcdb, hcycle, hnseq, -, -, hretired, hhead⟩ := s.retire_frame e
  obtain ⟨hx, hmem, hpc, hrs, hbranches, hmispred, -⟩ := s.retire_of_sideEffect e
  have htail := s.tail_retire e
  rw [hside] at hx hmem hpc hrs hbranches hmispred htail
  rw [State.commit_of_ready hready]
  refine ⟨fun q => ?_, fun q => ?_, fun a => ?_, ?_, ?_, ?_, hhead, ?_, fun p hp hn => ?_, fun p e' hp he' => ?_,
    ?_, fun n hn => ?_, hretired, ?_, ?_, hcdb, hnseq, hcycle, hcfg⟩
  · rw [hx, State.retireRegister_get _ hd hv]
    rfl
  · rw [s.stat_retire hkeep, hd]
    by_cases hq : q = r
    · simp [hq]
    · simp [hq, show ¬ r = q from fun h => hq h.symm]
  · rw [hmem]
    simp [State.headCommitted]
  · rw [hpc]
    simp [State.headCommitted]
  · rw [hrs]
    simp [State.headCommitted]
  · rw [htail]
    simp [State.headCommitted]
  · rw [s.entry_retire hkeep, if_pos rfl]
  · rw [s.entry_retire hkeep, if_neg hp, hn, Option.map_none]
  · exact ⟨_, by rw [s.entry_retire hkeep, if_neg hp, he', Option.map_some]⟩
  · rw [s.trace_retire, List.getElem?_modify_eq, hrec]
    rfl
  · rw [s.trace_retire]
    simp [hn.symm]
  · rw [hbranches]
    simp [State.headCommitted]
  · rw [hmispred]
    simp [State.headCommitted]

/-! ## What a step changes -/

/-- Commit changes no register but the destination of a ready head (R21, R195). -/
theorem State.commit_changes_register (s : State) (q : Reg) (h : s.commit.x.get q ≠ s.x.get q) :
    q ≠ 0 ∧ ∃ e, s.readyHead = some e ∧ e.dest = .register q ∧ e.value = some (s.commit.x.get q) := by
  rcases s.commit_cases with ⟨-, hc⟩ | ⟨e, hready, hc⟩
  · exact absurd (by rw [hc]) h
  · obtain ⟨hx, -⟩ := s.retire_of_sideEffect e
    rw [hc, hx] at h ⊢
    obtain ⟨hq, hd, hv⟩ := s.headCommitted.sideEffect_changes_register e q h
    exact ⟨hq, e, hready, hd, hv⟩

/-- The tick before Issue leaves registers and memory as Commit does. -/
theorem State.beforeIssue_of_commit (s : State) :
    s.beforeIssue.x = (State.commit { s with cycle := s.cycle + 1 }).x ∧
      s.beforeIssue.mem = (State.commit { s with cycle := s.cycle + 1 }).mem := by
  obtain ⟨-, hx, hmem, -⟩ := (State.commit { s with cycle := s.cycle + 1 }).writeArbitrate.execute_frame
  obtain ⟨-, hx', hmem', -⟩ := (State.commit { s with cycle := s.cycle + 1 }).writeArbitrate_frame
  exact ⟨hx.trans hx', hmem.trans hmem'⟩

/-- Issue writes no register, no memory, no counter but `nseq`, and no configuration. -/
theorem State.issue_frame (s : State) (q : IssueRequest) :
    (s.issue q).cfg = s.cfg ∧ (s.issue q).x = s.x ∧ (s.issue q).mem = s.mem := by
  rcases s.issue_cases q with ⟨h, -⟩ | ⟨k, -, -, -, h⟩ <;> rw [h] <;> exact ⟨rfl, rfl, rfl⟩

/-- What follows Issue writes no register, no memory and no configuration. -/
theorem State.afterIssue_frame (s : State) :
    s.afterIssue.cfg = s.cfg ∧ s.afterIssue.x = s.x ∧ s.afterIssue.mem = s.mem := by
  obtain ⟨hcfg, hx, hmem, -⟩ := s.writeDeliver_frame
  rw [State.afterIssue]
  rcases s.writeDeliver.runControl_cases with ⟨-, h⟩ | ⟨-, -, h⟩ | ⟨-, -, h⟩ <;> rw [h] <;> exact ⟨hcfg, hx, hmem⟩

/-- A step of a running engine leaves the configuration alone, and registers and memory as Commit does. -/
theorem step_architecture {s t : State} (h : step s = .next t) :
    t.cfg = s.cfg ∧ (t = s ∨ t.x = (State.commit { s with cycle := s.cycle + 1 }).x) := by
  obtain ⟨hcfg, -⟩ := s.beforeIssue_frame
  obtain ⟨hx, -⟩ := s.beforeIssue_of_commit
  rcases step_cases h with ⟨-, ht⟩ | ⟨-, -, ⟨-, ht⟩ | ⟨i, -, -, ht⟩⟩ <;> rw [ht]
  · exact ⟨rfl, .inl rfl⟩
  · obtain ⟨hcfg', hx', -⟩ := s.beforeIssue.afterIssue_frame
    exact ⟨hcfg'.trans hcfg, .inr (hx'.trans hx)⟩
  · obtain ⟨hcfg', hx', -⟩ := (s.beforeIssue.issue (requestOf s.beforeIssue i)).afterIssue_frame
    obtain ⟨hcfg'', hx'', -⟩ := s.beforeIssue.issue_frame (requestOf s.beforeIssue i)
    exact ⟨hcfg'.trans (hcfg''.trans hcfg), .inr (hx'.trans (hx''.trans hx))⟩

/-- Settles O34: the registers after a step are those after Commit. -/
theorem registerChangesOnlyAtCommit : Obligations.RegisterChangesOnlyAtCommit := by
  intro s t r hst hne
  obtain ⟨-, rfl | hx⟩ := step_architecture hst
  · exact absurd rfl hne
  · rw [hx] at hne ⊢
    exact State.commit_changes_register { s with cycle := s.cycle + 1 } r hne

/-- Settles O35: every stage keeps the configuration. -/
theorem programNeverWritten : Obligations.ProgramNeverWritten := fun _ _ hst => (step_architecture hst).1

/-! ## One broadcast in a cycle (R40) -/

/-- Arbitration changes no station but that of the candidate it picks. -/
theorem State.station_writeArbitrate (s : State) (c : Opcode) (k : Nat) :
    s.writeArbitrate.station c k =
      if s.oldestCandidate.any (fun d => decide (c = d.cls ∧ k = d.num)) then none else s.station c k := by
  rcases s.writeArbitrate_cases with ⟨hnone, h⟩ | ⟨d, hsome, h⟩
  · simp [h, hnone]
  · rw [h, State.station_release, State.station_congr (s := s) (by simp)]
    simp [hsome]

/-- Settles O25: the only station arbitration releases is that of the oldest candidate. -/
theorem oneBroadcastPerCycle : Obligations.OneBroadcastPerCycle := by
  intro s
  have hreleased : ∀ c k, s.station c k ≠ none → s.writeArbitrate.station c k = none →
      ∃ d, s.oldestCandidate = some d ∧ c = d.cls ∧ k = d.num := by
    intro c k hbusy hidle
    rw [s.station_writeArbitrate] at hidle
    split at hidle
    · next h => simpa [Option.any_eq_true] using h
    · exact absurd hidle hbusy
  refine ⟨fun c k c' k' hb hi hb' hi' => ?_, fun hnone => ?_⟩
  · obtain ⟨d, hd, hc, hk⟩ := hreleased c k hb hi
    obtain ⟨d', hd', hc', hk'⟩ := hreleased c' k' hb' hi'
    cases hd.symm.trans hd'
    exact ⟨hc.trans hc'.symm, hk.trans hk'.symm⟩
  · have hempty : s.candidates = [] := by
      refine List.eq_nil_iff_forall_not_mem.mpr fun d hd => ?_
      obtain ⟨st, hst, hres, -⟩ := (s.mem_candidates d).mp hd
      rw [hnone _ _ _ hst] at hres
      cases hres
    rcases s.writeArbitrate_cases with ⟨-, h⟩ | ⟨d, hsome, -⟩
    · exact h
    · rw [s.oldestCandidate_spec.1.mpr hempty] at hsome
      cases hsome

end Sys2Proof.Machine
end

section
/-! The invariant within a tick. Between arbitration and delivery the bus holds a message, and the entry it is for has
neither a station nor its value: `TickInv` is `Inv` with that entry allowed for. It falls into three parts that read
different pieces of the state: the queue with its entries and the mappings, the station pool with the latch, and the data
(10_state.md R29 to R45). -/

namespace Sys2Proof.Machine

/-- The latch holds a message for the entry in slot `p`. -/
def State.OnBus (s : State) (p : Nat) : Prop := ∃ m, s.cdb = some m ∧ m.p = p

/-- The queue, its entries and the register-status table (R31 to R37). -/
structure QueueInv (s : State) : Prop where
  robLength : s.rob.length = s.n
  headLt : s.head < s.n
  tailLt : s.tail < s.n
  occupied : ∀ p, (∃ e, s.entry p = some e) ↔ s.InFlight p
  entries : ∀ p e, s.entry p = some e → EntryInv s p e
  youngest : ∀ r p, s.stat.get r = some p ↔
    r ≠ 0 ∧ s.WritesReg r p ∧ ∀ q, s.WritesReg r q → s.age q ≤ s.age p

/-- The station pool and the latch (R28, R29, R38, R44, R45). -/
structure PoolInv (s : State) : Prop where
  stationCount : ∀ c, (s.rs.get c).length = s.cfg.rsCount.get c
  stations : ∀ c k st, s.station c k = some st → StationInv s c st
  /-- A delivered entry has no station, nor has one whose result is on the bus (R33, R191). -/
  released : ∀ p e, s.entry p = some e → e.value.isSome = true ∨ s.OnBus p → s.stationsOf p = 0
  /-- Every other entry has exactly one (R44). -/
  served : ∀ p e, s.entry p = some e → e.value = none → ¬ s.OnBus p → s.stationsOf p = 1
  /-- The message on the bus is for an Executing entry and has an address where its opcode computes one (R189, R191). -/
  latch : ∀ m, s.cdb = some m →
    ∃ e, s.entry m.p = some e ∧ e.phase = .executing ∧ (m.a.isSome = true ↔ (e.op = .load ∨ e.op = .store))

/-- The configuration, the registers, the memory and the length of the trace (R39, R47, R252). -/
structure DataInv (s : State) : Prop where
  latencies : ∀ c, 1 ≤ s.cfg.lat.get c
  r0 : s.x.get 0 = 0
  memory : Memory.wf s.mem
  traceLength : s.trace.length = s.nseq

/-- What holds at every point of a tick. -/
structure TickInv (s : State) : Prop where
  queue : QueueInv s
  pool : PoolInv s
  data : DataInv s

theorem QueueInv.of_inv {s : State} (h : Inv s) : QueueInv s where
  robLength := h.robLength
  headLt := h.headLt
  tailLt := h.tailLt
  occupied := h.entry_inFlight
  entries := h.entries
  youngest r p := by
    have hin : ∀ q, s.WritesReg r q → s.InFlight q := fun q ⟨e, he, _⟩ => (h.entry_inFlight q).mp ⟨e, he⟩
    rw [h.statYoungest, s.youngestWriter_eq_some h.headLt]
    exact ⟨fun ⟨hr, _, hw, hmax⟩ => ⟨hr, hw, fun q hq => hmax q (hin q hq) hq⟩,
      fun ⟨hr, hw, hmax⟩ => ⟨hr, hin p hw, hw, fun q _ hq => hmax q hq⟩⟩

theorem QueueInv.stat_eq_youngestWriter {s : State} (h : QueueInv s) (r : Reg) :
    s.stat.get r = s.youngestWriter r := by
  have hin : ∀ q, s.WritesReg r q → s.InFlight q := fun q ⟨e, he, _⟩ => (h.occupied q).mp ⟨e, he⟩
  refine Option.ext fun p => ?_
  rw [h.youngest, s.youngestWriter_eq_some h.headLt]
  exact ⟨fun ⟨hr, hw, hmax⟩ => ⟨hr, hin p hw, hw, fun q _ hq => hmax q hq⟩,
    fun ⟨hr, _, hw, hmax⟩ => ⟨hr, hw, fun q hq => hmax q (hin q hq) hq⟩⟩

theorem State.not_onBus_of_empty {s : State} (h : s.cdb = none) (p : Nat) : ¬ s.OnBus p := by
  rintro ⟨m, hm, -⟩
  rw [h] at hm
  cases hm

/-- At a tick boundary, where the latch is empty (R38), this is the invariant of the tick boundary. -/
theorem inv_iff_tickInv (s : State) : Inv s ↔ TickInv s ∧ s.cdb = none := by
  constructor
  · intro h
    have hbus := State.not_onBus_of_empty h.latchEmpty
    refine ⟨⟨.of_inv h, ?_, ⟨h.latencies, h.r0, h.memory, h.traceLength⟩⟩, h.latchEmpty⟩
    refine { stationCount := h.stationCount, stations := h.stations, released := fun p e he hv => ?_,
             served := fun p e he hv _ => ?_, latch := fun m hm => ?_ }
    · rw [h.backlinks p e he, if_pos (hv.resolve_right (hbus p))]
    · rw [h.backlinks p e he]
      simp [hv]
    · rw [h.latchEmpty] at hm
      cases hm
  · rintro ⟨⟨hq, hp, hd⟩, hlatch⟩
    exact
      { latencies := hd.latencies
        robLength := hq.robLength
        headLt := hq.headLt
        tailLt := hq.tailLt
        occupied := fun p hlt => by
          rw [Option.isSome_iff_exists, hq.occupied p, State.InFlight]
          exact ⟨And.right, fun ha => ⟨hlt, ha⟩⟩
        entries := hq.entries
        statYoungest := hq.stat_eq_youngestWriter
        stationCount := hp.stationCount
        stations := hp.stations
        backlinks := fun p e he => by
          cases hv : e.value with
          | some v => exact hp.released p e he (.inl (by simp [hv]))
          | none => exact hp.served p e he hv (State.not_onBus_of_empty hlatch p)
        latchEmpty := hlatch
        r0 := hd.r0
        memory := hd.memory
        traceLength := hd.traceLength }

theorem Inv.tick {s : State} (h : Inv s) : TickInv s := ((inv_iff_tickInv s).mp h).1

/-! ## What the parts read -/

theorem EntryInv.congr {s t : State} {p : Nat} {e : RobEntry} (h : EntryInv s p e) (hcfg : t.cfg = s.cfg)
    (hnseq : s.nseq ≤ t.nseq) (hspec : t.specBit e.op (t.olderThan p) = s.specBit e.op (s.olderThan p)) :
    EntryInv t p e where
  notCommitted := h.notCommitted
  writtenIffReady := h.writtenIffReady
  outcomeOfValue := h.outcomeOfValue
  seqIssued := h.seqIssued.trans_le hnseq
  specBit := h.specBit.trans hspec.symm
  idxInProgram := hcfg ▸ h.idxInProgram
  owner := hcfg ▸ h.owner

/-- The destination test reads the destination and whether the value is there. -/
theorem destOk_congr (i : Instr) {e e' : RobEntry} (hd : e'.dest = e.dest) (hv : e'.value.isSome = e.value.isSome) :
    destOk i e' = destOk i e := by
  cases i <;> simp only [destOk, hd, hv]

/-- The destination of a `STORE` is an address of memory, known once its result is there (R183, R193). -/
theorem EntryInv.dest_of_store {s : State} {p : Nat} {e : RobEntry} (h : EntryInv s p e) (hop : e.op = .store) :
    ∃ a, e.dest = .memory a ∧ a.isSome = e.value.isSome := by
  obtain ⟨i, -, hi, hd⟩ := h.owner
  rw [hop] at hi
  cases i <;> try cases hi
  case store rA rB imm =>
    cases hdest : e.dest with
    | memory a => exact ⟨a, rfl, by simpa [destOk, hdest] using hd⟩
    | register r => simp [destOk, hdest] at hd
    | none => simp [destOk, hdest] at hd

/-- A `BEQ` has no destination (R183). -/
theorem EntryInv.dest_of_beq {s : State} {p : Nat} {e : RobEntry} (h : EntryInv s p e) (hop : e.op = .beq) :
    e.dest = .none := by
  obtain ⟨i, -, hi, hd⟩ := h.owner
  rw [hop] at hi
  cases i <;> try cases hi
  case beq rA rB target => simpa [destOk] using hd

/-- An entry not yet Written has no value (R33). -/
theorem EntryInv.value_eq_none {s : State} {p : Nat} {e : RobEntry} (h : EntryInv s p e) (hp : e.phase ≠ .written) :
    e.value = none := by
  cases hv : e.value with
  | none => rfl
  | some v => exact absurd (h.writtenIffReady.mpr (by simp [hv])) hp

theorem QueueInv.congr {s t : State} (h : QueueInv s) (hcfg : t.cfg = s.cfg) (hhead : t.head = s.head)
    (htail : t.tail = s.tail) (hnseq : t.nseq = s.nseq) (hstat : t.stat = s.stat) (hlen : t.rob.length = s.rob.length)
    (hentry : ∀ p, t.entry p = s.entry p) : QueueInv t := by
  have hn : t.n = s.n := congrArg Config.robSize hcfg
  have hage := State.age_congr hcfg hhead
  have hop : ∀ p, t.opAt p = s.opAt p := fun p => by rw [State.opAt, hentry, State.opAt]
  exact
    { robLength := by rw [hlen, hn, h.robLength]
      headLt := by rw [hhead, hn]; exact h.headLt
      tailLt := by rw [htail, hn]; exact h.tailLt
      occupied := by
        simpa only [hentry, State.InFlight, hn, hage, State.count_congr hcfg hhead htail] using h.occupied
      entries := fun p e he => (h.entries p e (hentry p ▸ he)).congr hcfg hnseq.ge
        (State.specBit_olderThan_congr hcfg hhead htail hop e.op p)
      youngest := by simpa only [hstat, State.WritesReg, hentry, hage] using h.youngest }

/-- Changing one entry, within what holds of entries and without its opcode or its destination register. -/
theorem QueueInv.modifyEntry {s : State} (h : QueueInv s) (p : Nat) (f : RobEntry → RobEntry)
    (hf : ∀ e, s.entry p = some e → (f e).op = e.op ∧ (∀ r, (f e).dest = .register r ↔ e.dest = .register r) ∧
      EntryInv s p (f e)) : QueueInv (s.modifyEntry p f) := by
  have hentry : ∀ q e', (s.modifyEntry p f).entry q = some e' →
      ∃ e, s.entry q = some e ∧ e'.op = e.op ∧ (∀ r, e'.dest = .register r ↔ e.dest = .register r) ∧
        EntryInv s q e' := by
    intro q e' he'
    rw [State.entry_modifyEntry] at he'
    by_cases hq : q = p
    · subst hq
      rw [if_pos rfl, Option.map_eq_some_iff] at he'
      obtain ⟨e, he, rfl⟩ := he'
      exact ⟨e, he, hf e he⟩
    · rw [if_neg hq] at he'
      exact ⟨e', he', rfl, fun _ => Iff.rfl, h.entries q e' he'⟩
  have hsome : ∀ q e, s.entry q = some e → ∃ e', (s.modifyEntry p f).entry q = some e' := by
    intro q e he
    rw [State.entry_modifyEntry, he]
    by_cases hq : q = p <;> simp [hq]
  have hop : ∀ q, (s.modifyEntry p f).opAt q = s.opAt q := by
    intro q
    cases hq : (s.modifyEntry p f).entry q with
    | some e' =>
      obtain ⟨e, he, ho, -⟩ := hentry q e' hq
      simp [State.opAt, hq, he, ho]
    | none =>
      cases he : s.entry q with
      | some e =>
        obtain ⟨e', he'⟩ := hsome q e he
        rw [hq] at he'
        cases he'
      | none => simp [State.opAt, hq, he]
  have hwrites : ∀ r q, (s.modifyEntry p f).WritesReg r q ↔ s.WritesReg r q := by
    intro r q
    constructor
    · rintro ⟨e', he', hd⟩
      obtain ⟨e, he, -, hdest, -⟩ := hentry q e' he'
      exact ⟨e, he, (hdest r).mp hd⟩
    · rintro ⟨e, he, hd⟩
      obtain ⟨e', he'⟩ := hsome q e he
      obtain ⟨e₁, he₁, -, hdest, -⟩ := hentry q e' he'
      cases he.symm.trans he₁
      exact ⟨e', he', (hdest r).mpr hd⟩
  exact
    { robLength := (List.length_modify _ _ _).trans h.robLength
      headLt := h.headLt
      tailLt := h.tailLt
      occupied := fun q => by
        refine Iff.trans ⟨?_, ?_⟩ (h.occupied q)
        · rintro ⟨e', he'⟩
          obtain ⟨e, he, -⟩ := hentry q e' he'
          exact ⟨e, he⟩
        · rintro ⟨e, he⟩
          exact hsome q e he
      entries := fun q e' he' => by
        obtain ⟨-, -, -, -, hinv⟩ := hentry q e' he'
        exact hinv.congr rfl le_rfl
          (State.specBit_olderThan_congr (s := s) (t := s.modifyEntry p f) rfl rfl rfl hop _ q)
      youngest := fun r q => by
        simp only [hwrites]
        exact h.youngest r q }

theorem DataInv.congr {s t : State} (h : DataInv s) (hcfg : t.cfg = s.cfg) (hx : t.x = s.x) (hmem : t.mem = s.mem)
    (hlen : t.trace.length = s.trace.length) (hnseq : t.nseq = s.nseq) : DataInv t where
  latencies := hcfg ▸ h.latencies
  r0 := hx ▸ h.r0
  memory := hmem ▸ h.memory
  traceLength := by rw [hlen, hnseq, h.traceLength]

/-- A tag stays as R45 has it where the entry it names is still there, without a value, and still older. -/
theorem TagInv.congr {s t : State} {rob : Nat} {o : Operand} (h : TagInv s rob o)
    (hkeep : ∀ q e, s.entry q = some e → e.value = none → s.age q < s.age rob →
      ∃ e', t.entry q = some e' ∧ t.age q < t.age rob ∧ e'.value = none) : TagInv t rob o := by
  intro q hq
  obtain ⟨e, he, hage, hv⟩ := h q hq
  exact hkeep q e he hv hage

/-- A station is kept where its entry and the entries its tags name are, as far as it reads them. -/
theorem StationInv.congr {s t : State} {c : Opcode} {st : Station} (h : StationInv s c st) (hcfg : t.cfg = s.cfg)
    (hback : ∀ e, s.entry st.rob = some e → ∃ e', t.entry st.rob = some e' ∧ e'.op = e.op ∧ e'.idx = e.idx ∧
      e'.phase = e.phase)
    (hkeep : ∀ q e, s.entry q = some e → e.value = none → s.age q < s.age st.rob →
      ∃ e', t.entry q = some e' ∧ t.age q < t.age st.rob ∧ e'.value = none) : StationInv t c st where
  opIsClass := h.opIsClass
  backlink := by
    obtain ⟨e, he, hop, hidx, hph⟩ := h.backlink
    obtain ⟨e', he', hop', hidx', hph'⟩ := hback e he
    exact ⟨e', he', hop'.trans hop, hidx'.trans hidx, hph'.trans hph⟩
  notBegun := hcfg ▸ h.notBegun
  begun := hcfg ▸ h.begun
  resultReady := h.resultReady
  resultAddress := h.resultAddress
  tagJ := h.tagJ.congr hkeep
  tagK := h.tagK.congr hkeep

/-- The entry of a busy station is there and not Written, so it is not delivered. -/
theorem TickInv.entry_of_station {s : State} (h : TickInv s) {c : Opcode} {k : Nat} {st : Station}
    (hst : s.station c k = some st) :
    ∃ e, s.entry st.rob = some e ∧ e.op = c ∧ e.idx = st.idx ∧
      (e.phase = if st.started then .executing else .issued) ∧ e.value = none ∧ EntryInv s st.rob e := by
  obtain ⟨e, he, hop, hidx, hph⟩ := (h.pool.stations c k st hst).backlink
  have hinv := h.queue.entries _ e he
  refine ⟨e, he, hop, hidx, hph, hinv.value_eq_none ?_, hinv⟩
  rw [hph]
  split <;> decide

/-- No entry has two stations. -/
theorem TickInv.station_unique {s : State} (h : TickInv s) {c c' : Opcode} {k k' : Nat} {st st' : Station}
    (hst : s.station c k = some st) (hst' : s.station c' k' = some st') (hrob : st'.rob = st.rob) :
    c' = c ∧ k' = k := by
  obtain ⟨e, he, -, -, -, hv, -⟩ := h.entry_of_station hst
  refine State.station_unique hst hst' hrob ?_
  by_cases hbus : s.OnBus st.rob
  · rw [h.pool.released _ e he (.inr hbus)]
    exact Nat.zero_le 1
  · exact (h.pool.served _ e he hv hbus).le

/-- The entry of the message on the bus has no busy station. -/
theorem TickInv.not_onBus_of_station {s : State} (h : TickInv s) {c : Opcode} {k : Nat} {st : Station}
    (hst : s.station c k = some st) : ¬ s.OnBus st.rob := by
  intro hbus
  obtain ⟨e, he, -⟩ := h.entry_of_station hst
  exact (s.stationsOf_eq_zero _).mp (h.pool.released _ e he (.inr hbus)) c k st hst rfl

end Sys2Proof.Machine
end

section
/-! Every stage of the tick keeps the invariant within the tick (45_pipeline_driver.md R170). -/

namespace Sys2Proof.Machine

/-- The pool's part reads the configuration, `head`, the pool, the slots and the latch. -/
theorem PoolInv.congr {s t : State} (h : PoolInv s) (hcfg : t.cfg = s.cfg) (hhead : t.head = s.head)
    (hrs : t.rs = s.rs) (hcdb : t.cdb = s.cdb) (hentry : ∀ p, t.entry p = s.entry p) : PoolInv t := by
  have hage := State.age_congr hcfg hhead
  have hbus : ∀ p, t.OnBus p ↔ s.OnBus p := fun p => by rw [State.OnBus, hcdb, State.OnBus]
  refine { stationCount := ?_, stations := fun c k st hst => ?_, released := ?_, served := ?_, latch := ?_ }
  · simpa only [hrs, hcfg] using h.stationCount
  · rw [State.station_congr hrs] at hst
    exact (h.stations c k st hst).congr hcfg (fun e he => ⟨e, (hentry _).trans he, rfl, rfl, rfl⟩)
      fun q e he hv ha => ⟨e, (hentry q).trans he, by simpa only [hage] using ha, hv⟩
  · simpa only [hentry, hbus, State.stationsOf_congr hrs] using h.released
  · simpa only [hentry, hbus, State.stationsOf_congr hrs] using h.served
  · simpa only [hentry, hcdb] using h.latch

/-! ## Write arbitration (R191) -/

/-- The record a stamp of an entry is set in depends on the slot's entry, the trace and the cycle. -/
theorem State.trace_stampEntry_congr {s t : State} {p : Nat} {f : Stamp} (hentry : t.entry p = s.entry p)
    (htrace : t.trace = s.trace) (hcycle : t.cycle = s.cycle) :
    (t.stampEntry p f).trace = (s.stampEntry p f).trace := by
  unfold State.stampEntry
  rw [hentry]
  cases s.entry p with
  | none => exact htrace
  | some e => simp [htrace, hcycle]

/-- What arbitration does where there is a candidate: its message is on the bus, its station is released, its record is
stamped. -/
theorem State.writeArbitrate_of_candidate {s : State} {c : Candidate} (h : s.oldestCandidate = some c) :
    s.writeArbitrate.cdb = some { p := c.rob, v := c.result.value, a := c.result.addr } ∧
      s.writeArbitrate.rs = (s.release c.cls c.num).rs ∧
      s.writeArbitrate.trace = (s.stampEntry c.rob .written).trace := by
  have harb : s.writeArbitrate =
      (({ s with cdb := some { p := c.rob, v := c.result.value, a := c.result.addr } } : State).stampEntry
        c.rob .written).release c.cls c.num := by
    rw [State.writeArbitrate, h]
  have hstamp : (({ s with cdb := some { p := c.rob, v := c.result.value, a := c.result.addr } } : State).stampEntry
      c.rob .written).trace = (s.stampEntry c.rob .written).trace :=
    State.trace_stampEntry_congr rfl rfl rfl
  rw [harb]
  exact ⟨by simp, by simp, hstamp⟩

@[simp] theorem State.length_trace_stampEntry (s : State) (p : Nat) (f : Stamp) :
    (s.stampEntry p f).trace.length = s.trace.length := by
  unfold State.stampEntry
  split <;> simp

/-- A result-ready station has begun, so its entry is Executing (R136). -/
theorem TickInv.started_of_result {s : State} (h : TickInv s) {c : Opcode} {k : Nat} {st : Station}
    (hst : s.station c k = some st) (hres : st.result.isSome = true) : st.started = true := by
  have hinv := h.pool.stations c k st hst
  have hleft := hinv.resultReady.mp hres
  cases hs : st.started with
  | true => rfl
  | false =>
    have := hinv.notBegun hs
    have := h.data.latencies c
    omega

theorem PoolInv.writeArbitrate {s : State} (h : TickInv s) (hempty : s.cdb = none) : PoolInv s.writeArbitrate := by
  rcases s.writeArbitrate_cases with ⟨-, harb⟩ | ⟨c, hc, -⟩
  · rw [harb]
    exact h.pool
  obtain ⟨hcdb, hrs, -⟩ := State.writeArbitrate_of_candidate hc
  obtain ⟨hcfg, -, -, -, hrob, hhead, -⟩ := s.writeArbitrate_frame
  obtain ⟨st, hst, hres, hback⟩ := (s.mem_candidates c).mp (s.oldestCandidate_spec.2 c hc).1
  obtain ⟨e, he, hop, -, hph, hv, -⟩ := h.entry_of_station hst
  have hnone := State.not_onBus_of_empty hempty
  have hbus : ∀ p, s.writeArbitrate.OnBus p ↔ p = st.rob := fun p => by
    simp [State.OnBus, hcdb, hback, eq_comm]
  have hentry := State.entry_congr hrob
  have hage := State.age_congr hcfg hhead
  have hstation : ∀ d k, s.writeArbitrate.station d k =
      if d = c.cls ∧ k = c.num then none else s.station d k := fun d k => by
    rw [State.station_congr hrs, State.station_release]
  have hcount : ∀ p, s.writeArbitrate.stationsOf p + (if p = st.rob then 1 else 0) = s.stationsOf p := fun p => by
    have := s.stationsOf_setStation (s.station_lt hst) none p
    rw [State.stationsOf_congr hrs, State.release]
    simpa [hst, eq_comm (a := p)] using this
  refine { stationCount := fun d => ?_, stations := fun d k st' hst' => ?_, released := fun p e' he' hp => ?_,
           served := fun p e' he' hv' hp => ?_, latch := fun m hm => ?_ }
  · rw [hrs, hcfg, State.release, State.length_setStation, h.pool.stationCount]
  · rw [hstation] at hst'
    split at hst'
    · cases hst'
    · exact (h.pool.stations d k st' hst').congr hcfg (fun e he => ⟨e, (hentry _).trans he, rfl, rfl, rfl⟩)
        fun q e he hv ha => ⟨e, (hentry q).trans he, by simpa only [hage] using ha, hv⟩
  · rw [hentry] at he'
    have hp' := hcount p
    by_cases hpr : p = st.rob
    · subst hpr
      rw [h.pool.served _ e he hv (hnone _), if_pos rfl] at hp'
      omega
    · have hval := hp.resolve_right fun hb => hpr ((hbus p).mp hb)
      rw [h.pool.released p e' he' (.inl hval)] at hp'
      omega
  · rw [hentry] at he'
    have hp' := hcount p
    rw [if_neg fun hpr => hp ((hbus p).mpr hpr), h.pool.served p e' he' hv' (hnone p)] at hp'
    exact hp'
  · rw [hcdb] at hm
    cases hm
    refine ⟨e, (hentry _).trans (hback ▸ he), ?_, ?_⟩
    · rw [hph, if_pos (h.started_of_result hst (by simp [hres]))]
    · rw [hop]
      exact (h.pool.stations _ _ st hst).resultAddress _ hres

theorem TickInv.writeArbitrate {s : State} (h : TickInv s) (hempty : s.cdb = none) : TickInv s.writeArbitrate := by
  obtain ⟨hcfg, hx, hmem, -, hrob, hhead, htail, hstat, -, -, -, -, hnseq, -⟩ := s.writeArbitrate_frame
  have hlen : s.writeArbitrate.trace.length = s.trace.length := by
    rcases s.writeArbitrate_cases with ⟨-, harb⟩ | ⟨c, hc, -⟩
    · rw [harb]
    · rw [(State.writeArbitrate_of_candidate hc).2.2, State.length_trace_stampEntry]
  exact ⟨h.queue.congr hcfg hhead htail hnseq hstat (congrArg _ hrob) (State.entry_congr hrob),
    .writeArbitrate h hempty, h.data.congr hcfg hx hmem hlen hnseq⟩

/-! ## Execute (R186) -/

/-- A station after one cycle of execution with operand values `vj`, `vk` (R186). -/
def Station.advanced (st : Station) (vj vk : Word) (mem : Memory) : Station :=
  { st with
    left := st.left - 1
    started := true
    result := if st.left = 1 then some (st.evaluate vj vk mem) else st.result }

theorem State.rs_countDown (s : State) (c : Opcode) (k : Nat) (st : Station) (vj vk : Word) :
    (s.countDown c k st vj vk).rs = (s.setStation c k (some (st.advanced vj vk s.mem))).rs := by
  unfold State.countDown Station.advanced
  split
  · next h => simp [h]
  · simp

/-- An entry at the beginning of execution (R186, R187). -/
def RobEntry.executing (e : RobEntry) : RobEntry := { e with phase := .executing }

theorem State.entry_beginExecution (s : State) (st : Station) (p : Nat) :
    (s.beginExecution st).entry p = if p = st.rob then (s.entry p).map RobEntry.executing else s.entry p := by
  have h := (s.stampEntry st.rob .execStart).entry_modifyEntry st.rob p RobEntry.executing
  rw [State.entry_congr (s := s) (t := s.stampEntry st.rob .execStart) (by simp)] at h
  exact h

/-- The record of a station that is visited in cycle `cycle` (R186, R187). -/
def Record.visited (st : Station) (cycle : Nat) (r : Record) : Record :=
  { r with
    execStart := if st.started then r.execStart else some cycle
    execEnd := if st.left = 1 then some cycle else r.execEnd }

/-- Stamping an entry that is there stamps the record of its sequence number. -/
theorem State.trace_stampEntry {s : State} {p : Nat} {e : RobEntry} (he : s.entry p = some e) (f : Stamp) :
    (s.stampEntry p f).trace = s.trace.modify e.seq fun r => r.set f s.cycle := by
  simp [State.stampEntry, he]

theorem State.trace_countDown {s : State} {st : Station} {e : RobEntry} (he : s.entry st.rob = some e) (c : Opcode)
    (k : Nat) (vj vk : Word) : (s.countDown c k st vj vk).trace =
      if st.left = 1 then s.trace.modify e.seq fun r => r.set .execEnd s.cycle else s.trace := by
  unfold State.countDown
  split
  · exact State.trace_stampEntry (s := s.setStation c k _) he .execEnd
  · rfl

/-- What a visit stamps, whether the station has begun before or begins with it. -/
theorem State.trace_visited {s : State} {st : Station} {e : RobEntry} (he : s.entry st.rob = some e) (c : Opcode)
    (k : Nat) (vj vk : Word) :
    (st.started = true → (s.countDown c k st vj vk).trace = s.trace.modify e.seq (Record.visited st s.cycle)) ∧
      (st.started = false →
        ((s.beginExecution st).countDown c k st vj vk).trace = s.trace.modify e.seq (Record.visited st s.cycle)) := by
  refine ⟨fun hs => ?_, fun hs => ?_⟩
  · rw [State.trace_countDown he]
    by_cases hl : st.left = 1
    · have hset : Record.visited st s.cycle = fun r => r.set .execEnd s.cycle := by
        funext r
        simp [Record.visited, Record.set, hs, hl]
      rw [if_pos hl, hset]
    · have hset : Record.visited st s.cycle = id := by
        funext r
        simp [Record.visited, hs, hl]
      rw [if_neg hl, hset, List.modify_id]
  · have hbegin : (s.beginExecution st).trace = s.trace.modify e.seq fun r => r.set .execStart s.cycle :=
      State.trace_stampEntry he .execStart
    have hentry : (s.beginExecution st).entry st.rob = some e.executing := by
      rw [State.entry_beginExecution, if_pos rfl, he, Option.map_some]
    rw [State.trace_countDown hentry, hbegin]
    by_cases hl : st.left = 1
    · have hset : Record.visited st s.cycle =
          (fun r => r.set .execEnd s.cycle) ∘ fun r => r.set .execStart s.cycle := by
        funext r
        simp [Record.visited, Record.set, hs, hl]
      rw [if_pos hl, hset, ← List.modify_modify_eq, State.beginExecution_cycle]
      rfl
    · have hset : Record.visited st s.cycle = fun r => r.set .execStart s.cycle := by
        funext r
        simp [Record.visited, Record.set, hs, hl]
      rw [if_neg hl, hset]

/-- `t` is `s` after the visit that advanced the station `k` of class `c`: the station has executed one cycle more, its
entry is Executing and its record is stamped (R186, R187). -/
structure Visited (s t : State) (c : Opcode) (k : Nat) (st : Station) (vj vk : Word) : Prop where
  station : s.station c k = some st
  slotJ : st.j = .value vj
  slotK : st.k = .value vk
  left : st.left ≠ 0
  rs : t.rs = (s.setStation c k (some (st.advanced vj vk s.mem))).rs
  robLength : t.rob.length = s.rob.length
  entry : ∀ p, t.entry p = (s.modifyEntry st.rob RobEntry.executing).entry p
  trace : ∀ e, s.entry st.rob = some e → t.trace = s.trace.modify e.seq (Record.visited st s.cycle)

/-- A visit does nothing to a state with the invariant, or it advances its station. -/
theorem TickInv.visit_cases {s : State} (h : TickInv s) (c : Opcode) (k : Nat) :
    s.visit (c, k) = s ∨ ∃ st vj vk, Visited s (s.visit (c, k)) c k st vj vk := by
  rcases s.visit_cases c k with hv | ⟨st, vj, vk, hst, hj, hk, hleft, hv⟩
  · exact .inl hv
  · refine .inr ⟨st, vj, vk, ?_⟩
    rcases hv with ⟨hs, hv⟩ | ⟨hs, -, hv⟩ <;> rw [hv]
    · obtain ⟨-, -, -, -, hrob, -⟩ := s.countDown_frame c k st vj vk
      refine ⟨hst, hj, hk, hleft, s.rs_countDown c k st vj vk, congrArg _ hrob, fun p => ?_,
        fun e he => (State.trace_visited he c k vj vk).1 hs⟩
      obtain ⟨e, he, -, -, hph, -⟩ := h.entry_of_station hst
      have hsame : e.executing = e := by
        rw [hs, if_pos rfl] at hph
        rw [RobEntry.executing, ← hph]
      rw [State.entry_congr hrob, State.entry_modifyEntry]
      by_cases hp : p = st.rob
      · rw [if_pos hp, hp, he, Option.map_some, hsame]
      · rw [if_neg hp]
    · obtain ⟨-, -, -, -, hrob, -⟩ := (s.beginExecution st).countDown_frame c k st vj vk
      refine ⟨hst, hj, hk, hleft, ?_, ?_, fun p => ?_, fun e he => (State.trace_visited he c k vj vk).2 hs⟩
      · rw [State.rs_countDown, State.setStation_rs, State.setStation_rs]
        simp
      · rw [hrob]
        simp [State.beginExecution]
      · rw [State.entry_congr hrob, State.entry_beginExecution, State.entry_modifyEntry]

namespace Visited
variable {s t : State} {c : Opcode} {k : Nat} {st : Station} {vj vk : Word}

theorem station_eq (h : Visited s t c k st vj vk) (d : Opcode) (l : Nat) :
    t.station d l = if d = c ∧ l = k then some (st.advanced vj vk s.mem) else s.station d l := by
  rw [State.station_congr h.rs, State.station_setStation]
  simp [s.station_lt h.station]

/-- The visited station keeps its backlink. -/
theorem stationsOf_eq (h : Visited s t c k st vj vk) (p : Nat) : t.stationsOf p = s.stationsOf p := by
  have hset := s.stationsOf_setStation (s.station_lt h.station) (some (st.advanced vj vk s.mem)) p
  rw [State.stationsOf_congr h.rs]
  simpa [h.station, Station.advanced] using hset

theorem entry_some (h : Visited s t c k st vj vk) {p : Nat} {e : RobEntry} (he : s.entry p = some e) :
    t.entry p = some (if p = st.rob then e.executing else e) := by
  rw [h.entry, State.entry_modifyEntry, he]
  by_cases hp : p = st.rob <;> simp [hp]

theorem entry_before (h : Visited s t c k st vj vk) {p : Nat} {e' : RobEntry} (he' : t.entry p = some e') :
    ∃ e, s.entry p = some e ∧ e' = if p = st.rob then e.executing else e := by
  rw [h.entry, State.entry_modifyEntry] at he'
  by_cases hp : p = st.rob
  · rw [if_pos hp] at he'
    obtain ⟨e, he, heq⟩ := Option.map_eq_some_iff.mp he'
    exact ⟨e, he, by rw [if_pos hp, heq]⟩
  · rw [if_neg hp] at he'
    exact ⟨e', he', by rw [if_neg hp]⟩

/-- Another station has another entry, which is kept. -/
theorem entry_of_other (h : Visited s t c k st vj vk) (hinv : TickInv s) {d : Opcode} {l : Nat}
    (hdl : ¬ (d = c ∧ l = k)) {st' : Station} (hst' : s.station d l = some st') :
    st'.rob ≠ st.rob ∧ t.entry st'.rob = s.entry st'.rob := by
  have hne : st'.rob ≠ st.rob := fun hrob => hdl (hinv.station_unique h.station hst' hrob)
  exact ⟨hne, by rw [h.entry, State.entry_modifyEntry, if_neg hne]⟩

end Visited

/-- The result table gives an address to `LOAD` and `STORE` only (R189). -/
theorem Station.evaluate_addr (st : Station) (vj vk : Word) (mem : Memory) :
    (st.evaluate vj vk mem).addr.isSome = true ↔ (st.op = .load ∨ st.op = .store) := by
  unfold Station.evaluate
  cases st.op <;>
    simp [resultLoad, resultStore, resultBeq, resultCall, resultRet, resultAdd, resultAddi, resultNand, resultMul]

/-- Advancing a station keeps what holds of it, where its entry is then Executing. -/
theorem StationInv.advanced {s t : State} {c : Opcode} {st : Station} (h : StationInv s c st) (hcfg : t.cfg = s.cfg)
    {vj vk : Word} (hj : st.j = .value vj) (hk : st.k = .value vk) (hleft : st.left ≠ 0)
    (hback : ∀ e, s.entry st.rob = some e → t.entry st.rob = some e.executing) (mem : Memory) :
    StationInv t c (st.advanced vj vk mem) where
  opIsClass := h.opIsClass
  backlink := by
    obtain ⟨e, he, hop, hidx, -⟩ := h.backlink
    exact ⟨e.executing, hback e he, hop, hidx, rfl⟩
  notBegun hs := by cases hs
  begun _ := by
    have hle : st.left ≤ s.cfg.lat.get c := by
      cases hs : st.started with
      | true => exact (h.begun hs).2.2.le
      | false => exact (h.notBegun hs).le
    refine ⟨by simp [Station.advanced, hj, Operand.tag], by simp [Station.advanced, hk, Operand.tag], ?_⟩
    rw [hcfg]
    simp only [Station.advanced]
    omega
  resultReady := by
    have hnone : st.result.isSome = true → False := fun hres => hleft (h.resultReady.mp hres)
    simp only [Station.advanced]
    by_cases h1 : st.left = 1
    · simp [h1]
    · rw [if_neg h1]
      exact ⟨fun hres => (hnone hres).elim, fun h0 => absurd h0 (by omega)⟩
  resultAddress r hr := by
    simp only [Station.advanced] at hr
    split at hr
    · cases hr
      rw [st.evaluate_addr, h.opIsClass]
    · exact h.resultAddress r hr
  tagJ q hq := by
    have hq' : st.j = .waits q := hq
    rw [hj] at hq'
    cases hq'
  tagK q hq := by
    have hq' : st.k = .waits q := hq
    rw [hk] at hq'
    cases hq'

theorem QueueInv.visit {s : State} (h : TickInv s) (id : Opcode × Nat) : QueueInv (s.visit id) := by
  obtain ⟨c, k⟩ := id
  rcases h.visit_cases c k with hv | ⟨st, vj, vk, hv⟩
  · rw [hv]
    exact h.queue
  obtain ⟨hcfg, -, -, -, hhead, htail, hstat, -, -, -, -, -, hnseq, -⟩ := s.visit_frame (c, k)
  obtain ⟨e, he, -, -, -, hnone, hinv⟩ := h.entry_of_station hv.station
  have hexecuting : EntryInv s st.rob e.executing :=
    { hinv with
      notCommitted := by simp [RobEntry.executing]
      writtenIffReady := by simp [RobEntry.executing, hnone]
      owner := by
        obtain ⟨i, hi, hop, hd⟩ := hinv.owner
        exact ⟨i, hi, hop, (destOk_congr i rfl rfl).trans hd⟩ }
  have hmodified : QueueInv (s.modifyEntry st.rob RobEntry.executing) := by
    refine h.queue.modifyEntry st.rob RobEntry.executing fun e' he' => ?_
    cases he.symm.trans he'
    exact ⟨rfl, fun _ => Iff.rfl, hexecuting⟩
  exact hmodified.congr hcfg hhead htail hnseq hstat (by simpa using hv.robLength) hv.entry

theorem PoolInv.visit {s : State} (h : TickInv s) (id : Opcode × Nat) : PoolInv (s.visit id) := by
  obtain ⟨c, k⟩ := id
  rcases h.visit_cases c k with hv | ⟨st, vj, vk, hv⟩
  · rw [hv]
    exact h.pool
  obtain ⟨hcfg, -, -, -, hhead, -, -, hcdb, -⟩ := s.visit_frame (c, k)
  have hage := State.age_congr hcfg hhead
  have hbus : ∀ p, (s.visit (c, k)).OnBus p ↔ s.OnBus p := fun p => by rw [State.OnBus, hcdb, State.OnBus]
  have hvalue : ∀ p e', (s.visit (c, k)).entry p = some e' → ∃ e, s.entry p = some e ∧ e'.value = e.value := by
    intro p e' he'
    obtain ⟨e, he, rfl⟩ := hv.entry_before he'
    exact ⟨e, he, by split <;> rfl⟩
  refine { stationCount := fun d => ?_, stations := fun d l st' hst' => ?_, released := fun p e' he' hp => ?_,
           served := fun p e' he' hnone hp => ?_, latch := fun m hm => ?_ }
  · rw [hv.rs, hcfg, State.length_setStation, h.pool.stationCount]
  · rw [hv.station_eq] at hst'
    split at hst'
    · next hdl =>
      obtain ⟨rfl, rfl⟩ := hdl
      cases hst'
      exact (h.pool.stations d l st hv.station).advanced hcfg hv.slotJ hv.slotK hv.left
        (fun e he => by rw [hv.entry_some he, if_pos rfl]) s.mem
    · next hdl =>
      obtain ⟨-, hkept⟩ := hv.entry_of_other h hdl hst'
      refine (h.pool.stations d l st' hst').congr hcfg (fun e he => ⟨e, hkept.trans he, rfl, rfl, rfl⟩)
        fun q e he hnone ha => ⟨_, hv.entry_some he, by simpa only [hage] using ha, ?_⟩
      split <;> exact hnone
  · obtain ⟨e, he, hve⟩ := hvalue p e' he'
    rw [hv.stationsOf_eq, h.pool.released p e he (by rwa [hve, hbus] at hp)]
  · obtain ⟨e, he, hve⟩ := hvalue p e' he'
    rw [hv.stationsOf_eq, h.pool.served p e he (hve ▸ hnone) (by rwa [hbus] at hp)]
  · rw [hcdb] at hm
    obtain ⟨e, he, hph, ha⟩ := h.pool.latch m hm
    refine ⟨_, hv.entry_some he, ?_, ?_⟩
    · split
      · rfl
      · exact hph
    · split <;> exact ha

theorem TickInv.visit {s : State} (h : TickInv s) (id : Opcode × Nat) : TickInv (s.visit id) := by
  refine ⟨.visit h id, .visit h id, ?_⟩
  obtain ⟨hcfg, hx, hmem, -, -, -, -, -, -, -, -, -, hnseq, -⟩ := s.visit_frame id
  refine h.data.congr hcfg hx hmem ?_ hnseq
  rcases h.visit_cases id.1 id.2 with hv | ⟨st, vj, vk, hv⟩
  · exact congrArg (fun t : State => t.trace.length) hv
  · obtain ⟨e, he, -⟩ := h.entry_of_station hv.station
    rw [hv.trace e he, List.length_modify]

theorem TickInv.execute {s : State} (h : TickInv s) : TickInv s.execute :=
  State.execute_keeps (P := TickInv) (fun _ id ht => ht.visit id) s h

end Sys2Proof.Machine
end

section
/-! Commit keeps the invariant: the head is popped, or a misprediction empties the machine (45_pipeline_driver.md R195,
46_rollback.md R211 to R213). -/

namespace Sys2Proof.Machine

/-! ## Squash (R211) -/

/-- Squashing ids releases exactly the stations whose backlink is one of them. -/
theorem State.station_foldl_squashOne (s : State) (l : List Nat) (c : Opcode) (k : Nat) :
    (l.foldl State.squashOne s).station c k = (s.station c k).filter fun st => decide (st.rob ∉ l) := by
  induction l generalizing s with
  | nil => cases hs : s.station c k <;> simp [hs, Option.filter]
  | cons q rest ih =>
    rw [List.foldl_cons, ih, State.station_squashOne]
    cases s.station c k with
    | none => rfl
    | some st => by_cases hq : st.rob = q <;> by_cases hr : st.rob ∈ rest <;> simp [Option.filter, hq, hr]

/-- A mapping that is left after an id is squashed was there before, and is not that of the id by its destination. -/
theorem State.stat_squashOne (s : State) (q : Nat) {r : Reg} {p : Nat} (h : (s.squashOne q).stat.get r = some p) :
    s.stat.get r = some p ∧ ¬ (p = q ∧ s.WritesReg r q) := by
  have hstat : (s.squashOne q).stat = (match (s.entry q).map RobEntry.dest with
      | some (.register r) => if s.stat.get r = some q then s.setStat r none else s
      | _ => s : State).stat := rfl
  rw [hstat] at h
  cases he : s.entry q with
  | none =>
    simp only [he, Option.map_none] at h
    exact ⟨h, fun ⟨_, e, hw, _⟩ => by rw [he] at hw; cases hw⟩
  | some e =>
    simp only [he, Option.map_some] at h
    cases hd : e.dest with
    | register r' =>
      simp only [hd] at h
      have hwrites : s.WritesReg r q → r = r' := fun ⟨e', he', hd'⟩ => by
        cases he.symm.trans he'
        exact (Dest.register.inj (hd.symm.trans hd')).symm
      by_cases hs : s.stat.get r' = some q
      · rw [if_pos hs, State.setStat_stat, PerReg.get_set] at h
        split at h
        · cases h
        · next hr => exact ⟨h, fun ⟨_, hw⟩ => hr (hwrites hw)⟩
      · rw [if_neg hs] at h
        refine ⟨h, fun ⟨hp, hw⟩ => hs ?_⟩
        rw [← hwrites hw, h, hp]
    | memory a =>
      simp only [hd] at h
      exact ⟨h, fun ⟨_, e', he', hd'⟩ => by cases he.symm.trans he'; rw [hd] at hd'; cases hd'⟩
    | none =>
      simp only [hd] at h
      exact ⟨h, fun ⟨_, e', he', hd'⟩ => by cases he.symm.trans he'; rw [hd] at hd'; cases hd'⟩

/-- A mapping that is left after a squash was there before and names no squashed writer. -/
theorem State.stat_foldl_squashOne (l : List Nat) (hl : l.Nodup) (s : State) {r : Reg} {p : Nat}
    (h : (l.foldl State.squashOne s).stat.get r = some p) :
    s.stat.get r = some p ∧ ¬ (p ∈ l ∧ s.WritesReg r p) := by
  induction l generalizing s with
  | nil => exact ⟨h, fun hp => absurd hp.1 List.not_mem_nil⟩
  | cons q rest ih =>
    obtain ⟨hq, hrest⟩ := List.nodup_cons.mp hl
    obtain ⟨h1, h2⟩ := ih hrest (s.squashOne q) h
    obtain ⟨h3, h4⟩ := s.stat_squashOne q h1
    refine ⟨h3, fun ⟨hp, hw⟩ => ?_⟩
    rcases List.mem_cons.mp hp with rfl | hp
    · exact h4 ⟨rfl, hw⟩
    · have hne : p ≠ q := fun hpq => hq (hpq ▸ hp)
      obtain ⟨e, he, hd⟩ := hw
      exact h2 ⟨hp, e, by rw [State.entry_squashOne, if_neg hne, he], hd⟩

/-- A squash keeps the number of slots and of stations. -/
theorem State.squashYoungerThan_sizes (s : State) (h : Nat) :
    (s.squashYoungerThan h).rob.length = s.rob.length ∧
      ∀ c, ((s.squashYoungerThan h).rs.get c).length = (s.rs.get c).length := by
  refine State.foldl_squashOne_keeps
    (P := fun t : State => t.rob.length = s.rob.length ∧ ∀ c, (t.rs.get c).length = (s.rs.get c).length)
    (fun t q ht => ?_) _ s ⟨rfl, fun _ => rfl⟩
  unfold State.squashOne
  simp only [State.setEntry_rob, State.setEntry_rs, State.mapStations_rob, State.mapStations_rs, List.length_set,
    PerClass.get_map, List.length_map]
  split
  · split <;> exact ht
  · exact ht

/-- The misprediction procedure treats the pool, the slots, the mappings and `tail` as the squash does (R212). -/
theorem State.mispredict_of_squash (s : State) (e : RobEntry) :
    (s.mispredict e).rs = (State.squashYoungerThan { s with mispred := s.mispred + 1 } s.head).rs ∧
      (s.mispredict e).rob = (State.squashYoungerThan { s with mispred := s.mispred + 1 } s.head).rob ∧
      (s.mispredict e).stat = (State.squashYoungerThan { s with mispred := s.mispred + 1 } s.head).stat := by
  unfold State.mispredict
  cases s.branchTarget e.idx <;> exact ⟨rfl, rfl, rfl⟩

/-! ## The misprediction of the head empties the machine (R213) -/

/-- Nothing is in flight, no station is busy and no register is mapped. -/
structure Emptied (s : State) : Prop where
  indices : s.head = s.tail
  entry : ∀ p, s.entry p = none
  station : ∀ c k, s.station c k = none
  stat : ∀ r, s.stat.get r = none

/-- The state squashed when the head is mispredicted. -/
def State.beforeSquash (s : State) : State :=
  { s.headCommitted with branches := s.branches + 1, mispred := s.mispred + 1 }

theorem State.retire_of_squash (s : State) {e : RobEntry} (h : e.mispredicted) :
    (s.headCommitted.sideEffect e).rs = (s.beforeSquash.squashYoungerThan s.head).rs ∧
      (s.headCommitted.sideEffect e).rob = (s.beforeSquash.squashYoungerThan s.head).rob ∧
      (s.headCommitted.sideEffect e).stat = (s.beforeSquash.squashYoungerThan s.head).stat ∧
      (s.headCommitted.sideEffect e).tail = (s.head + 1) % s.n := by
  rw [s.headCommitted.sideEffect_mispredicted h]
  obtain ⟨hrs, hrob, hstat⟩ :=
    State.mispredict_of_squash { s.headCommitted with branches := s.headCommitted.branches + 1 } e
  exact ⟨hrs, hrob, hstat, (State.mispredict_queue _ e).1⟩

/-- Every entry in flight but the head is squashed. -/
theorem QueueInv.mem_squashed {s : State} (h : QueueInv s) {p : Nat} {e : RobEntry} (he : s.entry p = some e)
    (hp : p ≠ s.head) : p ∈ s.inFlight ∧ s.age s.head < s.age p := by
  have hin := (h.occupied p).mp ⟨e, he⟩
  refine ⟨(s.mem_inFlight h.headLt p).mpr hin, Nat.lt_of_le_of_ne ?_ fun hage => hp ?_⟩
  · rw [s.age_head h.headLt]
    exact Nat.zero_le _
  · exact (s.age_inj h.headLt h.headLt hin.1 hage).symm

theorem TickInv.emptied_of_mispredicted {s : State} (h : TickInv s) {e : RobEntry} (he : s.entry s.head = some e)
    (hval : e.value.isSome = true) (hm : e.mispredicted) : Emptied (s.retire e) := by
  obtain ⟨hrs, hrob, hstat, htail⟩ := s.retire_of_squash hm
  obtain ⟨-, -, -, hrs', -⟩ := s.retire_of_sideEffect e
  obtain ⟨-, -, -, -, -, -, -, hhead⟩ := s.retire_frame e
  let squashed := s.inFlight.filter fun q => decide (s.age s.head < s.age q)
  have hsquashed : ∀ p, p ∈ squashed ↔ p ∈ s.inFlight ∧ s.age s.head < s.age p := fun p => by
    simp [squashed]
  refine { indices := ?_, entry := fun p => ?_, station := fun c k => ?_, stat := fun r => ?_ }
  · rw [hhead, s.tail_retire, htail]
  · rw [s.entry_retire_of_sideEffect, State.entry_congr hrob]
    by_cases hp : p = s.head
    · rw [if_pos hp]
    · have hentry : (s.beforeSquash.squashYoungerThan s.head).entry p =
          if p ∈ s.inFlight ∧ s.age s.head < s.age p then none else s.headCommitted.entry p :=
        s.beforeSquash.entry_squashYoungerThan s.head p
      rw [if_neg hp, hentry]
      cases hep : s.entry p with
      | some e' => rw [if_pos (h.queue.mem_squashed hep hp), Option.map_none]
      | none => simp [State.headCommitted, State.entry_modifyEntry, hep]
  · have hst : (s.retire e).station c k = (squashed.foldl State.squashOne s.beforeSquash).station c k :=
      State.station_congr (hrs'.trans hrs) c k
    have hkept : s.beforeSquash.station c k = s.station c k := rfl
    rw [hst, State.station_foldl_squashOne, hkept]
    cases hs : s.station c k with
    | none => rfl
    | some st =>
      obtain ⟨e', he', -, -, -, hv', -⟩ := h.entry_of_station hs
      have hne : st.rob ≠ s.head := fun heq => by
        rw [heq, he] at he'
        cases he'
        simp [hv'] at hval
      have hmem := (hsquashed st.rob).mpr (h.queue.mem_squashed he' hne)
      simp [Option.filter, hmem]
  · have hnone : (s.headCommitted.sideEffect e).stat.get r = none := by
      rw [hstat]
      cases hleft : (s.beforeSquash.squashYoungerThan s.head).stat.get r with
      | none => rfl
      | some p =>
        obtain ⟨hbefore, hnot⟩ := State.stat_foldl_squashOne squashed
          ((s.inFlight_nodup h.queue.headLt).filter _) s.beforeSquash hleft
        obtain ⟨-, ⟨e', he', hd'⟩, -⟩ := (h.queue.youngest r p).mp hbefore
        have hne : p ≠ s.head := fun heq => by
          rw [heq, he] at he'
          cases he'
          rw [(h.queue.entries _ _ he).dest_of_beq hm.1] at hd'
          cases hd'
        refine absurd ⟨(hsquashed p).mpr (h.queue.mem_squashed he' hne), e', ?_, hd'⟩ hnot
        rw [show s.beforeSquash.entry p = s.headCommitted.entry p from rfl, State.headCommitted,
          State.entry_modifyEntry, if_neg hne, he']
    rw [s.stat_retire_of_sideEffect, hnone]
    simp

/-! ## Retiring the head keeps the invariant -/

theorem State.retire_sizes (s : State) (e : RobEntry) :
    (s.retire e).rob.length = s.rob.length ∧ ∀ c, ((s.retire e).rs.get c).length = (s.rs.get c).length := by
  obtain ⟨-, -, -, hrs, -, -, hlen⟩ := s.retire_of_sideEffect e
  have hslots : s.headCommitted.rob.length = s.rob.length := by simp [State.headCommitted]
  by_cases hm : e.mispredicted
  · obtain ⟨hrs', hrob', -⟩ := s.retire_of_squash hm
    obtain ⟨hl, hc⟩ := s.beforeSquash.squashYoungerThan_sizes s.head
    exact ⟨by rw [hlen, hrob', hl]; exact hslots, fun c => by rw [hrs, hrs', hc]; rfl⟩
  · obtain ⟨hrs', hrob', -⟩ := s.headCommitted.sideEffect_keeps hm
    exact ⟨by rw [hlen, hrob', hslots], fun c => by rw [hrs, hrs']; rfl⟩

theorem DataInv.retire {s : State} (h : DataInv s) (e : RobEntry) : DataInv (s.retire e) := by
  obtain ⟨hcfg, -, -, hnseq, -⟩ := s.retire_frame e
  obtain ⟨hx, hmem, -⟩ := s.retire_of_sideEffect e
  refine { latencies := hcfg ▸ h.latencies, r0 := ?_, memory := ?_, traceLength := ?_ }
  · by_contra h0
    have hchanged : (s.headCommitted.sideEffect e).x.get 0 ≠ s.headCommitted.x.get 0 := by
      rw [← hx]
      exact fun heq => h0 (heq.trans h.r0)
    exact (s.headCommitted.sideEffect_changes_register e 0 hchanged).1 rfl
  · rw [hmem]
    exact s.headCommitted.sideEffect_wf e h.memory
  · rw [s.trace_retire, List.length_modify, hnseq, h.traceLength]

theorem TickInv.of_emptied {s t : State} (h : TickInv s) (ht : Emptied t) (hcfg : t.cfg = s.cfg)
    (hhead : t.head < t.n) (hlen : t.rob.length = s.rob.length)
    (hrs : ∀ c, (t.rs.get c).length = (s.rs.get c).length) (hcdb : t.cdb = none) (hdata : DataInv t) : TickInv t := by
  have hcount : t.count = 0 := (t.count_eq_zero hhead (ht.indices ▸ hhead)).mpr ht.indices
  refine ⟨{ robLength := ?_, headLt := hhead, tailLt := ht.indices ▸ hhead, occupied := fun p => ?_,
            entries := fun p e he => ?_, youngest := fun r p => ?_ },
    { stationCount := fun c => ?_, stations := fun c k st hst => ?_, released := fun p e he _ => ?_,
      served := fun p e he _ _ => ?_, latch := fun m hm => ?_ }, hdata⟩
  · rw [hlen, h.queue.robLength, State.n, ← hcfg]
    rfl
  · simp [ht.entry, State.InFlight, hcount]
  · simp [ht.entry] at he
  · simp [ht.stat, State.WritesReg, ht.entry]
  · rw [hrs, h.pool.stationCount, hcfg]
  · simp [ht.station] at hst
  · simp [ht.entry] at he
  · simp [ht.entry] at he
  · simp [hcdb] at hm

/-- The slot just popped is the last to come round again. -/
theorem State.age_popped {s t : State} (hn : t.n = s.n) (ht : t.head = (s.head + 1) % s.n) (hh : s.head < s.n) :
    t.age s.head + 1 = s.n := by
  have hth : t.head < t.n := by rw [ht, hn]; exact Nat.mod_lt _ (by omega)
  rw [t.age_eq hth (hn ▸ hh), hn, ht]
  rcases Nat.lt_or_ge (s.head + 1) s.n with h | h
  · rw [Nat.mod_eq_of_lt h]
    split_ifs <;> omega
  · rw [show s.head + 1 = s.n by omega, Nat.mod_self]
    split_ifs <;> omega

/-- `t` has the queue, the mappings and the pool of `s` after its ready head `e` was retired without a misprediction. -/
structure HeadPopped (s t : State) (e : RobEntry) : Prop where
  notEmpty : s.head ≠ s.tail
  headEntry : s.entry s.head = some e
  ready : e.value.isSome = true
  cfg : t.cfg = s.cfg
  head : t.head = (s.head + 1) % s.n
  tail : t.tail = s.tail
  nseq : t.nseq = s.nseq
  rs : t.rs = s.rs
  cdb : t.cdb = s.cdb
  robLength : t.rob.length = s.rob.length
  entry : ∀ p, t.entry p = if p = s.head then none else
    (s.entry p).map fun e' => { e' with spec := t.specBit e'.op (t.olderThan p) }
  stat : ∀ r, t.stat.get r = if e.dest = .register r ∧ s.stat.get r = some s.head then none else s.stat.get r

theorem State.retire_popped {s : State} {e : RobEntry} (hready : s.readyHead = some e) (hm : ¬ e.mispredicted) :
    HeadPopped s (s.retire e) e := by
  obtain ⟨hne, he, -, hval⟩ := (s.readyHead_eq_some e).mp hready
  obtain ⟨hcfg, hcdb, -, hnseq, -, -, -, hhead⟩ := s.retire_frame e
  obtain ⟨-, -, -, hrs, -⟩ := s.retire_of_sideEffect e
  obtain ⟨hrs', -, htail', -⟩ := s.headCommitted.sideEffect_keeps hm
  exact
    { notEmpty := hne
      headEntry := he
      ready := hval
      cfg := hcfg
      head := hhead
      tail := (s.tail_retire e).trans htail'
      nseq := hnseq
      rs := hrs.trans hrs'
      cdb := hcdb
      robLength := (s.retire_sizes e).1
      entry := s.entry_retire hm
      stat := s.stat_retire hm }

namespace HeadPopped
variable {s t : State} {e : RobEntry}

theorem n_eq (h : HeadPopped s t e) : t.n = s.n := congrArg Config.robSize h.cfg

theorem age_succ (h : HeadPopped s t e) (hh : s.head < s.n) {p : Nat} (hp : p < s.n) (hne : p ≠ s.head) :
    t.age p + 1 = s.age p := State.age_of_head_succ h.n_eq h.head hh hp hne

theorem age_lt_iff (h : HeadPopped s t e) (hh : s.head < s.n) {p q : Nat} (hp : p < s.n) (hq : q < s.n)
    (hph : p ≠ s.head) (hqh : q ≠ s.head) : t.age p < t.age q ↔ s.age p < s.age q := by
  have := h.age_succ hh hp hph
  have := h.age_succ hh hq hqh
  omega

theorem count_succ (h : HeadPopped s t e) (hq : QueueInv s) : t.count + 1 = s.count := by
  rw [← State.age_tail, ← State.age_tail, h.tail]
  exact h.age_succ hq.headLt hq.tailLt h.notEmpty.symm

theorem entry_some (h : HeadPopped s t e) {p : Nat} {e' : RobEntry} (hp : p ≠ s.head) (he' : s.entry p = some e') :
    ∃ b, t.entry p = some { e' with spec := b } :=
  ⟨_, by rw [h.entry, if_neg hp, he', Option.map_some]⟩

theorem entry_before (h : HeadPopped s t e) {p : Nat} {e' : RobEntry} (he' : t.entry p = some e') :
    p ≠ s.head ∧ ∃ e₀, s.entry p = some e₀ ∧ e' = { e₀ with spec := t.specBit e₀.op (t.olderThan p) } := by
  rw [h.entry] at he'
  split at he'
  · cases he'
  · next hp =>
    obtain ⟨e₀, he₀, heq⟩ := Option.map_eq_some_iff.mp he'
    exact ⟨hp, e₀, he₀, heq.symm⟩

/-- An entry without a value is not the head. -/
theorem ne_head (h : HeadPopped s t e) {p : Nat} {e' : RobEntry} (he' : s.entry p = some e') (hv : e'.value = none) :
    p ≠ s.head := by
  rintro rfl
  cases h.headEntry.symm.trans he'
  have hready := h.ready
  simp [hv] at hready

theorem writesReg_iff (h : HeadPopped s t e) (r : Reg) (p : Nat) :
    t.WritesReg r p ↔ p ≠ s.head ∧ s.WritesReg r p := by
  constructor
  · rintro ⟨e', he', hd⟩
    obtain ⟨hp, e₀, he₀, rfl⟩ := h.entry_before he'
    exact ⟨hp, e₀, he₀, hd⟩
  · rintro ⟨hp, e₀, he₀, hd⟩
    obtain ⟨b, hb⟩ := h.entry_some hp he₀
    exact ⟨_, hb, hd⟩

theorem occupied (h : HeadPopped s t e) (hq : QueueInv s) (p : Nat) : (∃ e', t.entry p = some e') ↔ t.InFlight p := by
  have hcount := h.count_succ hq
  constructor
  · rintro ⟨e', he'⟩
    obtain ⟨hp, e₀, he₀, -⟩ := h.entry_before he'
    obtain ⟨hpn, hpa⟩ := (hq.occupied p).mp ⟨e₀, he₀⟩
    have := h.age_succ hq.headLt hpn hp
    exact ⟨h.n_eq ▸ hpn, by omega⟩
  · rintro ⟨hpn, hpa⟩
    rw [h.n_eq] at hpn
    have hp : p ≠ s.head := by
      rintro rfl
      have := State.age_popped h.n_eq h.head hq.headLt
      have := s.count_lt (Nat.zero_lt_of_lt hq.headLt)
      omega
    have := h.age_succ hq.headLt hpn hp
    obtain ⟨e₀, he₀⟩ := (hq.occupied p).mpr ⟨hpn, by omega⟩
    obtain ⟨b, hb⟩ := h.entry_some hp he₀
    exact ⟨_, hb⟩

/-- The mappings name the youngest writers still: the head was the oldest, and a mapping to it is cleared (R37, R195). -/
theorem youngest (h : HeadPopped s t e) (hq : QueueInv s) (r : Reg) (p : Nat) :
    t.stat.get r = some p ↔ r ≠ 0 ∧ t.WritesReg r p ∧ ∀ q, t.WritesReg r q → t.age q ≤ t.age p := by
  have hage : ∀ p q, s.WritesReg r p → s.WritesReg r q → p ≠ s.head → q ≠ s.head →
      (t.age q ≤ t.age p ↔ s.age q ≤ s.age p) := by
    rintro p q ⟨ep, hep, -⟩ ⟨eq, heq, -⟩ hp hqh
    have := h.age_lt_iff hq.headLt ((hq.occupied p).mp ⟨ep, hep⟩).1 ((hq.occupied q).mp ⟨eq, heq⟩).1 hp hqh
    omega
  rw [h.stat]
  constructor
  · intro hs
    split at hs
    · cases hs
    · next hclear =>
      obtain ⟨hr, hw, hmax⟩ := (hq.youngest r p).mp hs
      have hp : p ≠ s.head := by
        rintro rfl
        obtain ⟨e₀, he₀, hd⟩ := hw
        cases h.headEntry.symm.trans he₀
        exact hclear ⟨hd, hs⟩
      refine ⟨hr, (h.writesReg_iff r p).mpr ⟨hp, hw⟩, fun q hwq => ?_⟩
      obtain ⟨hqh, hwq'⟩ := (h.writesReg_iff r q).mp hwq
      exact (hage p q hw hwq' hp hqh).mpr (hmax q hwq')
  · rintro ⟨hr, hw, hmax⟩
    obtain ⟨hp, hw'⟩ := (h.writesReg_iff r p).mp hw
    have hs : s.stat.get r = some p := by
      refine (hq.youngest r p).mpr ⟨hr, hw', fun q hwq => ?_⟩
      by_cases hqh : q = s.head
      · rw [hqh, s.age_head hq.headLt]
        exact Nat.zero_le _
      · exact (hage p q hw' hwq hp hqh).mp (hmax q ((h.writesReg_iff r q).mpr ⟨hqh, hwq⟩))
    rw [if_neg fun hclear => hp (Option.some.inj (hs.symm.trans hclear.2)), hs]

theorem queueInv (h : HeadPopped s t e) (hq : QueueInv s) : QueueInv t where
  robLength := by rw [h.robLength, h.n_eq, hq.robLength]
  headLt := by
    rw [h.head, h.n_eq]
    exact Nat.mod_lt _ (Nat.zero_lt_of_lt hq.headLt)
  tailLt := by
    rw [h.tail, h.n_eq]
    exact hq.tailLt
  occupied := h.occupied hq
  entries p e' he' := by
    obtain ⟨-, e₀, he₀, rfl⟩ := h.entry_before he'
    have hinv := hq.entries p e₀ he₀
    exact
      { notCommitted := hinv.notCommitted
        writtenIffReady := hinv.writtenIffReady
        outcomeOfValue := hinv.outcomeOfValue
        seqIssued := h.nseq ▸ hinv.seqIssued
        specBit := rfl
        idxInProgram := h.cfg ▸ hinv.idxInProgram
        owner := by
          obtain ⟨i, hi, hop, hd⟩ := hinv.owner
          exact ⟨i, h.cfg ▸ hi, hop, (destOk_congr i rfl rfl).trans hd⟩ }
  youngest := h.youngest hq

theorem poolInv (h : HeadPopped s t e) (hinv : TickInv s) (hempty : s.cdb = none) : PoolInv t := by
  have hbus : ∀ p, t.OnBus p ↔ s.OnBus p := fun p => by rw [State.OnBus, h.cdb, State.OnBus]
  have hlt : ∀ p e', s.entry p = some e' → p < s.n := fun p e' he' => ((hinv.queue.occupied p).mp ⟨e', he'⟩).1
  refine { stationCount := fun c => ?_, stations := fun c k st hst => ?_, released := fun p e' he' hp => ?_,
           served := fun p e' he' hv hp => ?_, latch := fun m hm => ?_ }
  · rw [h.rs, h.cfg, hinv.pool.stationCount]
  · rw [State.station_congr h.rs] at hst
    obtain ⟨e₁, he₁, -, -, -, hv₁, -⟩ := hinv.entry_of_station hst
    have hrob := h.ne_head he₁ hv₁
    refine (hinv.pool.stations c k st hst).congr h.cfg (fun e₂ he₂ => ?_) fun q e₂ he₂ hv₂ hlt₂ => ?_
    · obtain ⟨b, hb⟩ := h.entry_some hrob he₂
      exact ⟨_, hb, rfl, rfl, rfl⟩
    · have hq := h.ne_head he₂ hv₂
      obtain ⟨b, hb⟩ := h.entry_some hq he₂
      exact ⟨_, hb, (h.age_lt_iff hinv.queue.headLt (hlt q e₂ he₂) (hlt _ e₁ he₁) hq hrob).mpr hlt₂, hv₂⟩
  · obtain ⟨-, e₀, he₀, rfl⟩ := h.entry_before he'
    rw [State.stationsOf_congr h.rs, hinv.pool.released p e₀ he₀ (by rwa [hbus] at hp)]
  · obtain ⟨-, e₀, he₀, rfl⟩ := h.entry_before he'
    rw [State.stationsOf_congr h.rs, hinv.pool.served p e₀ he₀ hv (by rwa [hbus] at hp)]
  · rw [h.cdb, hempty] at hm
    cases hm

end HeadPopped

theorem TickInv.commit {s : State} (h : TickInv s) (hempty : s.cdb = none) :
    TickInv s.commit ∧ s.commit.cdb = none := by
  rcases s.commit_cases with ⟨-, hc⟩ | ⟨e, hready, hc⟩ <;> rw [hc]
  · exact ⟨h, hempty⟩
  · obtain ⟨-, he, -, hval⟩ := (s.readyHead_eq_some e).mp hready
    obtain ⟨hcfg, hcdb, -, -, -, -, -, hhead⟩ := s.retire_frame e
    refine ⟨?_, hcdb.trans hempty⟩
    by_cases hm : e.mispredicted
    · have hn : (s.retire e).n = s.n := congrArg Config.robSize hcfg
      refine h.of_emptied (h.emptied_of_mispredicted he hval hm) hcfg ?_ (s.retire_sizes e).1 (s.retire_sizes e).2
        (hcdb.trans hempty) (h.data.retire e)
      rw [hhead, hn]
      exact Nat.mod_lt _ (Nat.zero_lt_of_lt h.queue.headLt)
    · have hpopped := State.retire_popped hready hm
      exact ⟨hpopped.queueInv h.queue, hpopped.poolInv h hempty, h.data.retire e⟩

end Sys2Proof.Machine
end

section
/-! Issue and delivery keep the invariant; so does a whole step (45_pipeline_driver.md R180, R183, R193). -/

namespace Sys2Proof.Machine

/-! ## Issue (R183) -/

/-- The entry Issue allocates has the destination of its instruction (R183). -/
theorem destOk_newEntry (s : State) (i : Instr) : destOk i (s.newEntry (requestOf s i)) = true := by
  cases i <;> simp [destOk, requestOf, State.newEntry]

/-- What Issue puts in an operand slot: the capture of a register, or a value (R134). -/
inductive Captured (s : State) : Operand → Prop where
  | register (r : Reg) : Captured s (s.capture r)
  | value (v : Word) : Captured s (.value v)

theorem requestOf_captured (s : State) :
    ∀ i, Captured s (requestOf s i).j ∧ Captured s (requestOf s i).k
  | .load _ rB _ => ⟨.register rB, .value 0⟩
  | .store rA rB _ => ⟨.register rA, .register rB⟩
  | .beq rA rB _ => ⟨.register rA, .register rB⟩
  | .call _ => ⟨.value 0, .value 0⟩
  | .ret => ⟨.register 1, .value 0⟩
  | .add _ rB rC => ⟨.register rB, .register rC⟩
  | .addi _ rB imm => ⟨.register rB, .value imm⟩
  | .nand _ rB rC => ⟨.register rB, .register rC⟩
  | .mul _ rB rC => ⟨.register rB, .register rC⟩

/-- A captured tag names an entry in flight that has no value (R45, R133). -/
theorem QueueInv.entry_of_capture {s : State} (h : QueueInv s) {r : Reg} {q : Nat} (hq : s.capture r = .waits q) :
    ∃ e, s.entry q = some e ∧ e.value = none ∧ s.age q < s.count := by
  obtain ⟨-, hstat, hv⟩ := (s.capture_eq_waits r q).mp hq
  obtain ⟨-, ⟨e, he, -⟩, -⟩ := (h.youngest r q).mp hstat
  rw [he] at hv
  exact ⟨e, he, hv, ((h.occupied q).mp ⟨e, he⟩).2⟩

/-- The slot at `tail` is Empty (R31). -/
theorem QueueInv.entry_tail {s : State} (h : QueueInv s) : s.entry s.tail = none := by
  cases he : s.entry s.tail with
  | none => rfl
  | some e => exact absurd ((h.occupied s.tail).mp ⟨e, he⟩).2 (lt_irrefl s.count)

section allocate
variable {s : State}

theorem QueueInv.entry_allocate (h : QueueInv s) (q : IssueRequest) (k p : Nat) :
    (s.allocate q k).entry p = if p = s.tail then some (s.newEntry q) else s.entry p :=
  s.entry_allocate q k p (h.robLength ▸ h.tailLt)

/-- An entry that was there before is not in the slot allocated. -/
theorem QueueInv.ne_tail (h : QueueInv s) {p : Nat} {e : RobEntry} (he : s.entry p = some e) : p ≠ s.tail := by
  rintro rfl
  rw [h.entry_tail] at he
  cases he

theorem QueueInv.entry_allocate_kept (h : QueueInv s) (q : IssueRequest) (k : Nat) {p : Nat} {e : RobEntry}
    (he : s.entry p = some e) : (s.allocate q k).entry p = some e := by
  rw [h.entry_allocate, if_neg (h.ne_tail he), he]

@[simp] theorem State.age_allocate (s : State) (q : IssueRequest) (k p : Nat) : (s.allocate q k).age p = s.age p :=
  State.age_congr rfl rfl p

/-- An issue adds no older entry to one that was in flight, nor to the new one. -/
theorem QueueInv.specBit_allocate (h : QueueInv s) (hfull : s.robFull = false) (q : IssueRequest) (k : Nat) {p : Nat}
    (hp : s.age p ≤ s.count) (op : Opcode) :
    (s.allocate q k).specBit op ((s.allocate q k).olderThan p) = s.specBit op (s.olderThan p) := by
  have hcount := s.count_allocate q k h.headLt h.tailLt hfull
  have holder : ∀ p', p' ∈ (s.allocate q k).olderThan p ↔ p' ∈ s.olderThan p := by
    intro p'
    rw [State.mem_olderThan (s.allocate q k) h.headLt, s.mem_olderThan h.headLt]
    simp only [State.InFlight, hcount, State.age_allocate]
    exact ⟨fun ⟨⟨hn, _⟩, ha⟩ => ⟨⟨hn, by omega⟩, ha⟩, fun ⟨⟨hn, _⟩, ha⟩ => ⟨⟨hn, by omega⟩, ha⟩⟩
  refine State.specBit_congr op fun o => ?_
  simp only [holder]
  refine exists_congr fun p' => and_congr_right fun hp' => ?_
  obtain ⟨e, he⟩ := (h.occupied p').mpr ((s.mem_olderThan h.headLt p p').mp hp').1
  rw [State.opAt, h.entry_allocate_kept q k he, State.opAt, he]

/-- All that is in flight is older than the slot at `tail`. -/
theorem QueueInv.specBit_tail (h : QueueInv s) (op : Opcode) :
    s.specBit op (s.olderThan s.tail) = s.specBit op s.inFlight := by
  refine State.specBit_congr _ fun o => exists_congr fun p => and_congr_left fun _ => ?_
  rw [s.mem_olderThan h.headLt, s.mem_inFlight h.headLt]
  exact ⟨And.left, fun hp => ⟨hp, hp.2⟩⟩

theorem QueueInv.writesReg_allocate (h : QueueInv s) (q : IssueRequest) (k : Nat) (r : Reg) (p : Nat) :
    (s.allocate q k).WritesReg r p ↔ (p = s.tail ∧ q.dest = .register r) ∨ s.WritesReg r p := by
  simp only [State.WritesReg, h.entry_allocate]
  by_cases hp : p = s.tail
  · subst hp
    simp [h.entry_tail, State.newEntry]
  · simp [hp]

theorem QueueInv.occupied_allocate (h : QueueInv s) (hfull : s.robFull = false) (q : IssueRequest) (k p : Nat) :
    (∃ e, (s.allocate q k).entry p = some e) ↔ (s.allocate q k).InFlight p := by
  have hin : (s.allocate q k).InFlight p ↔ p < s.n ∧ s.age p < s.count + 1 := by
    rw [State.InFlight, s.count_allocate q k h.headLt h.tailLt hfull, State.age_allocate]
    rfl
  rw [hin, h.entry_allocate]
  by_cases hp : p = s.tail
  · simp [hp, h.tailLt, s.age_tail]
  · rw [if_neg hp, h.occupied p, State.InFlight]
    refine and_congr_right fun hpn => ⟨Nat.lt_succ_of_lt, fun ha => ?_⟩
    refine Nat.lt_of_le_of_ne (Nat.le_of_lt_succ ha) fun heq => hp ?_
    exact s.age_inj h.headLt hpn h.tailLt heq

/-- The new entry is the youngest writer of its destination; for every other register nothing changes (R37, R183). -/
theorem QueueInv.youngest_allocate (h : QueueInv s) (q : IssueRequest) (k : Nat) (r : Reg) (p : Nat) :
    (s.allocate q k).stat.get r = some p ↔ r ≠ 0 ∧ (s.allocate q k).WritesReg r p ∧
      ∀ p', (s.allocate q k).WritesReg r p' → (s.allocate q k).age p' ≤ (s.allocate q k).age p := by
  have hwriter : ∀ p, s.WritesReg r p → s.age p < s.count := fun p ⟨e, he, _⟩ => ((h.occupied p).mp ⟨e, he⟩).2
  rw [State.allocate_stat, s.renamed_get]
  simp only [h.writesReg_allocate, State.age_allocate]
  by_cases hd : q.dest = .register r ∧ r ≠ 0
  · rw [if_pos hd, Option.some_inj]
    constructor
    · rintro rfl
      refine ⟨hd.2, .inl ⟨rfl, hd.1⟩, fun p' hp' => ?_⟩
      rcases hp' with ⟨rfl, -⟩ | hp'
      · exact le_refl _
      · exact (hwriter p' hp').le
    · rintro ⟨-, ⟨hp, -⟩ | hw, hmax⟩
      · exact hp.symm
      · exact absurd (hmax s.tail (.inl ⟨rfl, hd.1⟩)) (Nat.not_le.mpr (hwriter p hw))
  · rw [if_neg hd, h.youngest r p]
    refine and_congr_right fun hr => ?_
    have hnot : ∀ p', ¬ (p' = s.tail ∧ q.dest = .register r) := fun p' hp' => hd ⟨hp'.2, hr⟩
    simp [hnot]

variable {i : Instr} {k : Nat}

/-- The new entry is as the instruction at `pc` asks (R183). -/
theorem QueueInv.newEntry_inv (h : QueueInv s) (hfull : s.robFull = false) (hpc : s.pc < s.cfg.progLen)
    (hi : s.cfg.instrAt s.pc.toNat = some i) :
    EntryInv (s.allocate (requestOf s i) k) s.tail (s.newEntry (requestOf s i)) where
  notCommitted := by simp [State.newEntry]
  writtenIffReady := by simp [State.newEntry]
  outcomeOfValue := by simp [State.newEntry]
  seqIssued := Nat.lt_succ_self _
  specBit := by
    rw [h.specBit_allocate hfull _ _ (le_refl s.count), h.specBit_tail]
    rfl
  idxInProgram := hpc
  owner := ⟨i, hi, (requestOf_op s i).symm, destOk_newEntry s i⟩

theorem QueueInv.allocate (h : QueueInv s) (hfull : s.robFull = false) (hpc : s.pc < s.cfg.progLen)
    (hi : s.cfg.instrAt s.pc.toNat = some i) : QueueInv (s.allocate (requestOf s i) k) where
  robLength := (List.length_set ..).trans h.robLength
  headLt := h.headLt
  tailLt := Nat.mod_lt _ (Nat.zero_lt_of_lt h.headLt)
  occupied := h.occupied_allocate hfull _ k
  entries p e he := by
    rw [h.entry_allocate] at he
    split at he
    · next hp =>
      cases he
      exact hp ▸ h.newEntry_inv hfull hpc hi
    · have hin := (h.occupied p).mp ⟨e, he⟩
      exact (h.entries p e he).congr rfl (Nat.le_succ _) (h.specBit_allocate hfull _ _ hin.2.le _)
  youngest := h.youngest_allocate _ k

/-- The message on the bus is not for the slot at `tail`. -/
theorem TickInv.not_onBus_tail (h : TickInv s) : ¬ s.OnBus s.tail := by
  rintro ⟨m, hm, hp⟩
  obtain ⟨e, he, -⟩ := h.pool.latch m hm
  exact h.queue.ne_tail he hp

/-- A station's entry is not in the slot at `tail`. -/
theorem TickInv.rob_ne_tail (h : TickInv s) {c : Opcode} {l : Nat} {st : Station} (hst : s.station c l = some st) :
    st.rob ≠ s.tail := by
  obtain ⟨e, he, -⟩ := h.entry_of_station hst
  exact h.queue.ne_tail he

/-- Only the new entry gains a station. -/
theorem State.stationsOf_allocate (hk : s.tryAcquire i.opcode = some k) (p : Nat) :
    (s.allocate (requestOf s i) k).stationsOf p = s.stationsOf p + if p = s.tail then 1 else 0 := by
  obtain ⟨⟨hlen, hidle⟩, -⟩ := (s.tryAcquire_eq_some _ k).mp hk
  have hset := s.stationsOf_setStation hlen (some (s.newStation (requestOf s i))) p
  rw [hidle, linked_none, linked_some] at hset
  have hrs : (s.allocate (requestOf s i) k).rs =
      (s.setStation i.opcode k (some (s.newStation (requestOf s i)))).rs := by
    rw [State.allocate_rs, State.setStation_rs, requestOf_op]
  rw [State.stationsOf_congr hrs]
  simpa [State.newStation, eq_comm (a := p)] using hset

/-- What Issue captured is as R45 has it: a tag names an entry in flight, older than the new one. -/
theorem TickInv.tagInv_of_captured (h : TickInv s) {o : Operand} (ho : Captured s o) (q : IssueRequest) :
    TagInv (s.allocate q k) s.tail o := by
  intro p hp
  cases ho with
  | register r =>
    obtain ⟨e, he, hv, ha⟩ := h.queue.entry_of_capture hp
    exact ⟨e, h.queue.entry_allocate_kept q k he, by rw [State.age_allocate, State.age_allocate]; exact ha, hv⟩
  | value v => cases hp

theorem TickInv.newStation_inv (h : TickInv s) :
    StationInv (s.allocate (requestOf s i) k) i.opcode (s.newStation (requestOf s i)) where
  opIsClass := requestOf_op s i
  backlink := by
    refine ⟨s.newEntry (requestOf s i), ?_, requestOf_op s i, rfl, rfl⟩
    rw [h.queue.entry_allocate]
    exact if_pos rfl
  notBegun _ := by simp [State.newStation]
  begun hs := by cases hs
  resultReady := by
    have hlat : s.cfg.lat.get i.opcode ≠ 0 := Nat.ne_of_gt (h.data.latencies i.opcode)
    simp [State.newStation, hlat]
  resultAddress r hr := by cases hr
  tagJ := h.tagInv_of_captured (requestOf_captured s i).1 _
  tagK := h.tagInv_of_captured (requestOf_captured s i).2 _

theorem PoolInv.allocate (h : TickInv s) (hk : s.tryAcquire i.opcode = some k) :
    PoolInv (s.allocate (requestOf s i) k) := by
  obtain ⟨⟨hlen, -⟩, -⟩ := (s.tryAcquire_eq_some _ k).mp hk
  have hcount := State.stationsOf_allocate hk
  refine { stationCount := fun c => ?_, stations := fun c l st hst => ?_, released := fun p e he hp => ?_,
           served := fun p e he hv hp => ?_, latch := fun m hm => ?_ }
  · rw [State.allocate_rs, PerClass.get_set, State.allocate_cfg, ← h.pool.stationCount]
    split
    · next hc => rw [hc, List.length_set]
    · rfl
  · rw [s.station_allocate _ _ _ _ (by rwa [requestOf_op]), requestOf_op] at hst
    split at hst
    · next hc =>
      obtain ⟨rfl, rfl⟩ := hc
      cases hst
      exact h.newStation_inv
    · have hkept : ∀ q e, s.entry q = some e → (s.allocate (requestOf s i) k).entry q = some e := fun q e he =>
        h.queue.entry_allocate_kept _ k he
      exact (h.pool.stations c l st hst).congr rfl (fun e he => ⟨e, hkept _ e he, rfl, rfl, rfl⟩)
        fun q e he hv ha => ⟨e, hkept q e he, by rw [State.age_allocate, State.age_allocate]; exact ha, hv⟩
  · rw [h.queue.entry_allocate] at he
    split at he
    · next hpt =>
      subst hpt
      cases he
      exact absurd (hp.resolve_left (by simp [State.newEntry])) h.not_onBus_tail
    · next hpt => rw [hcount, if_neg hpt, h.pool.released p e he hp]
  · rw [h.queue.entry_allocate] at he
    split at he
    · next hpt =>
      rw [hcount, if_pos hpt, hpt, (s.stationsOf_eq_zero _).mpr fun c l st hst => h.rob_ne_tail hst]
    · next hpt => rw [hcount, if_neg hpt, h.pool.served p e he hv hp]
  · obtain ⟨e, he, hrest⟩ := h.pool.latch m hm
    exact ⟨e, h.queue.entry_allocate_kept _ k he, hrest⟩

end allocate

theorem TickInv.issue {s : State} (h : TickInv s) {i : Instr} (hpc : s.pc < s.cfg.progLen)
    (hi : s.cfg.instrAt s.pc.toNat = some i) : TickInv (s.issue (requestOf s i)) := by
  rcases s.issue_cases (requestOf s i) with ⟨hs, -⟩ | ⟨k, -, hfull, hk, hs⟩ <;> rw [hs]
  · exact h
  · rw [requestOf_op] at hk
    refine ⟨h.queue.allocate hfull hpc hi, .allocate h hk, h.data.latencies, h.data.r0, h.data.memory, ?_⟩
    simp [h.data.traceLength]

/-! ## Delivery (R193) -/

/-- The delivery of a message keeps what holds of its entry, where the message has an address for a `LOAD` or a `STORE`. -/
theorem EntryInv.deliver {s : State} {p : Nat} {e : RobEntry} (h : EntryInv s p e) (m : CdbMsg)
    (ha : m.a.isSome = true ↔ (e.op = .load ∨ e.op = .store)) : EntryInv s p (e.deliver m) where
  notCommitted := by simp [RobEntry.deliver]
  writtenIffReady := by simp [RobEntry.deliver]
  outcomeOfValue := by
    have hout := h.outcomeOfValue
    by_cases hop : e.op = .beq
    · simp [RobEntry.deliver, hop]
    · simpa [RobEntry.deliver, hop] using hout
  seqIssued := h.seqIssued
  specBit := h.specBit
  idxInProgram := h.idxInProgram
  owner := by
    obtain ⟨i, hi, hop, hd⟩ := h.owner
    refine ⟨i, hi, hop, ?_⟩
    rw [← hop] at ha
    cases i <;> simp_all [destOk, RobEntry.deliver, Instr.opcode, ← hop]

theorem EntryInv.deliver_dest {s : State} {p : Nat} {e : RobEntry} (h : EntryInv s p e) (m : CdbMsg) (r : Reg) :
    (e.deliver m).dest = .register r ↔ e.dest = .register r := by
  by_cases hop : e.op = .store
  · obtain ⟨a, hd, -⟩ := h.dest_of_store hop
    simp [RobEntry.deliver, hop, hd]
  · simp [RobEntry.deliver, hop]

/-- A slot waits after the snoop only where it waited before, and not on the message (R135). -/
theorem Operand.snoop_eq_waits (o : Operand) (p q : Nat) (v : Word) :
    o.snoop p v = .waits q ↔ o = .waits q ∧ q ≠ p := by
  cases o with
  | value w => simp [Operand.snoop]
  | waits q' =>
    simp only [Operand.snoop]
    by_cases hq : q' = p
    · rw [if_pos hq]
      simp only [reduceCtorEq, Operand.waits.injEq, false_iff, not_and, not_not]
      exact fun h => h ▸ hq
    · rw [if_neg hq]
      simp only [Operand.waits.injEq]
      exact ⟨fun h => ⟨h, h ▸ hq⟩, And.left⟩

theorem Operand.tag_snoop (o : Operand) (p : Nat) (v : Word) (h : o.tag = none) : (o.snoop p v).tag = none := by
  cases o with
  | value w => rfl
  | waits q => cases h

theorem QueueInv.writeDeliver {s : State} (h : TickInv s) : QueueInv s.writeDeliver := by
  rcases s.writeDeliver_cases with ⟨-, hd⟩ | ⟨m, hm, hd⟩ <;> rw [hd]
  · exact h.queue
  · obtain ⟨e₀, he₀, -, ha⟩ := h.pool.latch m hm
    have hq : QueueInv (s.modifyEntry m.p fun e => RobEntry.deliver e m) := by
      refine h.queue.modifyEntry _ _ fun e he => ?_
      cases he₀.symm.trans he
      have hinv := h.queue.entries _ _ he₀
      exact ⟨rfl, hinv.deliver_dest m, hinv.deliver m ha⟩
    exact hq.congr rfl rfl rfl rfl rfl rfl fun _ => rfl

theorem PoolInv.writeDeliver {s : State} (h : TickInv s) : PoolInv s.writeDeliver := by
  obtain ⟨hcfg, -, -, -, hhead, -, -, -, -, -, -, -, -, -, -, hcdb⟩ := s.writeDeliver_frame
  rcases hbus : s.cdb with - | m
  · rcases s.writeDeliver_cases with ⟨-, hd⟩ | ⟨m, hm, -⟩
    · rw [hd]
      exact h.pool
    · rw [hbus] at hm
      cases hm
  obtain ⟨e₀, he₀, -, -⟩ := h.pool.latch m hbus
  have hon : ∀ p, s.OnBus p ↔ p = m.p := fun p => by simp [State.OnBus, hbus, eq_comm]
  have hentry := s.entry_writeDeliver hbus
  have hkept : ∀ p e, p ≠ m.p → s.entry p = some e → s.writeDeliver.entry p = some e := fun p e hp he => by
    rw [hentry, if_neg hp, he]
  have hage := State.age_congr hcfg hhead
  have hrs : s.writeDeliver.rs = (s.mapStations (Option.map fun t => Station.snoop t m.p m.v)).rs := by
    rcases s.writeDeliver_cases with ⟨hnone, -⟩ | ⟨m', hm', hd⟩
    · rw [hbus] at hnone
      cases hnone
    · cases hbus.symm.trans hm'
      rw [hd]
      rfl
  have hcount : ∀ p, s.writeDeliver.stationsOf p = s.stationsOf p := fun p => by
    rw [State.stationsOf_congr hrs, s.stationsOf_mapStations (g := fun t => Station.snoop t m.p m.v) fun _ => rfl]
  refine { stationCount := fun c => ?_, stations := fun c k st' hst' => ?_, released := fun p e he hp => ?_,
           served := fun p e he hv hp => ?_, latch := fun m' hm' => ?_ }
  · rw [hrs, State.length_mapStations, hcfg, h.pool.stationCount]
  · rw [s.station_writeDeliver hbus] at hst'
    obtain ⟨st, hst, rfl⟩ := Option.map_eq_some_iff.mp hst'
    have hrob : st.rob ≠ m.p := fun heq => h.not_onBus_of_station hst ((hon _).mpr heq)
    have hinv := h.pool.stations c k st hst
    have htag : ∀ o, TagInv s st.rob o → TagInv s.writeDeliver st.rob (o.snoop m.p m.v) := by
      intro o ho q hq
      obtain ⟨hwait, hqm⟩ := (o.snoop_eq_waits _ _ _).mp hq
      obtain ⟨e, he, ha, hv⟩ := ho q hwait
      exact ⟨e, hkept q e hqm he, by simpa only [hage] using ha, hv⟩
    exact
      { opIsClass := hinv.opIsClass
        backlink := by
          obtain ⟨e, he, hrest⟩ := hinv.backlink
          exact ⟨e, hkept _ e hrob he, hrest⟩
        notBegun := fun hs => by rw [hcfg]; exact hinv.notBegun hs
        begun := fun hs => by
          obtain ⟨hj, hk, hleft⟩ := hinv.begun hs
          rw [hcfg]
          exact ⟨st.j.tag_snoop _ _ hj, st.k.tag_snoop _ _ hk, hleft⟩
        resultReady := hinv.resultReady
        resultAddress := hinv.resultAddress
        tagJ := htag _ hinv.tagJ
        tagK := htag _ hinv.tagK }
  · rw [hcount]
    by_cases hpm : p = m.p
    · exact h.pool.released p e₀ (hpm ▸ he₀) (.inr ((hon p).mpr hpm))
    · rw [hentry, if_neg hpm] at he
      exact h.pool.released p e he (.inl (hp.resolve_right (State.not_onBus_of_empty hcdb p)))
  · rw [hcount]
    have hpm : p ≠ m.p := by
      rintro rfl
      rw [hentry, if_pos rfl, he₀] at he
      cases he
      cases hv
    rw [hentry, if_neg hpm] at he
    exact h.pool.served p e he hv fun hb => hpm ((hon p).mp hb)
  · rw [hcdb] at hm'
    cases hm'

/-- After delivery the latch is empty, so the invariant of the tick boundary holds again (R38). -/
theorem TickInv.inv_writeDeliver {s : State} (h : TickInv s) : Inv s.writeDeliver := by
  obtain ⟨hcfg, hx, hmem, -, -, -, -, -, -, -, -, hnseq, -, -, htrace, hcdb⟩ := s.writeDeliver_frame
  exact (inv_iff_tickInv _).mpr
    ⟨⟨.writeDeliver h, .writeDeliver h, h.data.congr hcfg hx hmem (congrArg _ htrace) hnseq⟩, hcdb⟩

/-! ## The step -/

/-- Neither the cycle count nor the end of a run is in the invariant. -/
theorem Inv.congr_control {s t : State} (h : Inv s)
    (ht : t = { s with cycle := t.cycle, run := t.run, status := t.status }) : Inv t := by
  have htick := h.tick
  rw [ht]
  exact (inv_iff_tickInv _).mpr
    ⟨⟨htick.queue.congr rfl rfl rfl rfl rfl rfl fun _ => rfl, htick.pool.congr rfl rfl rfl rfl fun _ => rfl,
      htick.data.congr rfl rfl rfl rfl rfl⟩, h.latchEmpty⟩

theorem Inv.runControl {s : State} (h : Inv s) : Inv s.runControl := by
  rcases s.runControl_cases with ⟨-, hr⟩ | ⟨-, -, hr⟩ | ⟨-, -, hr⟩ <;> rw [hr]
  · exact h.congr_control rfl
  · exact h.congr_control rfl
  · exact h

theorem TickInv.inv_afterIssue {s : State} (h : TickInv s) : Inv s.afterIssue := h.inv_writeDeliver.runControl

/-- The tick up to Issue keeps the invariant, stage by stage in the order of R170. -/
theorem Inv.beforeIssue {s : State} (h : Inv s) : TickInv s.beforeIssue := by
  have hnext : Inv { s with cycle := s.cycle + 1 } := h.congr_control rfl
  obtain ⟨hcommit, hempty⟩ := hnext.tick.commit hnext.latchEmpty
  exact (hcommit.writeArbitrate hempty).execute

/-- Settles O49: each stage keeps the invariant within the tick, and delivery empties the latch again. -/
theorem everyStepKeepsInvariant : Obligations.EveryStepKeepsInvariant := by
  intro s t h hst
  rcases step_cases hst with ⟨-, ht⟩ | ⟨-, -, ⟨-, ht⟩ | ⟨i, hpc, hi, ht⟩⟩ <;> rw [ht]
  · exact h
  · exact h.beforeIssue.inv_afterIssue
  · exact (h.beforeIssue.issue hpc hi).inv_afterIssue

end Sys2Proof.Machine
end

section
/-! The invariant at a reset and at a start, and what it says of every reached state (10_state.md R33, R36, R39, R48,
60_exceptions.md R252). -/

namespace Sys2Proof.Machine

/-! ## Reset and start -/

theorem State.station_initial (c : Config) (cl : Opcode) (k : Nat) : (State.initial c).station cl k = none := by
  simp only [State.station, State.initial, PerClass.get_map, List.getD_eq_getElem?_getD, List.getElem?_replicate]
  split <;> rfl

/-- Settles O40: the state of R48, read field by field. -/
theorem resetValues : Obligations.ResetValues := by
  intro s
  have hregs : ∀ r, s.hardReset.x.get r = if r = 0 then 0 else s.cfg.regInit.get r := fun r => PerReg.get_set _ _ _ _
  refine ⟨rfl, by simp [hregs], fun r hr => by rw [hregs, if_neg hr], rfl, rfl, State.station_initial s.cfg,
    fun c => ?_, List.length_replicate, State.entry_initial s.cfg, rfl, rfl, fun r => PerReg.get_const none r,
    rfl, rfl, rfl, rfl, rfl, rfl, rfl, rfl, rfl⟩
  simp [State.hardReset, State.initial]

/-- A reset leaves nothing in flight, so the invariant asks only for a slot and for latencies of at least 1. -/
theorem inv_initial {c : Config} (hrob : 1 ≤ c.robSize) (hlat : ∀ op, 1 ≤ c.lat.get op) : Inv (State.initial c) := by
  have hcount : (State.initial c).count = 0 := ((State.initial c).count_eq_zero hrob hrob).mpr rfl
  refine (inv_iff_tickInv _).mpr ⟨⟨?_, ?_, ?_⟩, rfl⟩
  · refine { robLength := List.length_replicate, headLt := hrob, tailLt := hrob, occupied := fun p => ?_,
             entries := fun p e he => ?_, youngest := fun r p => ?_ }
    · simp [State.entry_initial, State.InFlight, hcount]
    · simp [State.entry_initial] at he
    · have hstat : (State.initial c).stat.get r = none := PerReg.get_const none r
      simp [hstat, State.WritesReg, State.entry_initial]
  · refine { stationCount := fun cl => ?_, stations := fun cl k st hst => ?_, released := fun p e he _ => ?_,
             served := fun p e he _ _ => ?_, latch := fun m hm => ?_ }
    · simp [State.initial]
    · simp [State.station_initial] at hst
    · simp [State.entry_initial] at he
    · simp [State.entry_initial] at he
    · cases hm
  · exact ⟨hlat, PerReg.get_set_same c.regInit 0 0, Memory.ofImage_wf c.memInit, rfl⟩

/-- What the start checks pass (R252, R254). -/
theorem startCheck_eq_none {c : Config} (h : startCheck c = none) :
    1 ≤ c.robSize ∧ (∀ op, 1 ≤ c.lat.get op) ∧ ProgramLegal c := by
  unfold startCheck at h
  split at h
  · cases h
  · next hrob =>
    split at h
    · cases h
    · next hlat =>
      refine ⟨by simpa [Config.robSizeOk, Nat.one_le_iff_ne_zero] using hrob,
        (latenciesOk_iff c).mp (by simpa using hlat), fun i hi => ?_⟩
      have hword := (List.findSome?_eq_none_iff.mp h) i (List.mem_range.mpr hi)
      cases hi : c.instrAt i with
      | some ins => exact ⟨ins, rfl⟩
      | none => simp [checkWord, hi] at hword

/-- Settles O47: the reset is that of the default configuration, whose buffer and latencies are in range. -/
theorem invariantAtReset : Obligations.InvariantAtReset := by
  have h : Inv (State.initial Config.default) := inv_initial (by decide) (by intro op; cases op <;> decide)
  rwa [← resetIsDefault] at h

/-- Settles O48: the checks bound the buffer and the latencies, and nothing is in flight. -/
theorem invariantAtStart : Obligations.InvariantAtStart := by
  intro c hc
  obtain ⟨hrob, hlat, -⟩ := startCheck_eq_none hc
  rw [started_of_check hc]
  exact (inv_initial hrob hlat).congr_control rfl

/-! ## Every reached state -/

theorem Reached.inv {c : Config} {t : State} (h : Reached c t) : Inv t :=
  reached_keeps (invariantAtStart c) everyStepKeepsInvariant h

theorem cfg_started (c : Config) : (State.started c).cfg = c := by
  unfold State.started
  split <;> rfl

theorem Reached.cfg {c : Config} {t : State} (h : Reached c t) : t.cfg = c :=
  reached_keeps (P := fun s => s.cfg = c) (fun _ => cfg_started c)
    (fun s t hs hst => (programNeverWritten s t hst).trans hs) h

/-- A running state with the invariant and a legal program goes on, since Issue meets no illegal word (R89). -/
theorem Inv.step_safe {s : State} (h : Inv s) (hlegal : ProgramLegal s.cfg) : Safe (step s) := by
  cases hrun : s.run with
  | false => exact ⟨s, step_stopped hrun⟩
  | true =>
    obtain ⟨hcfg, -⟩ := s.beforeIssue_frame
    rw [step_running hrun h]
    rcases s.beforeIssue.fetchIssue_cases with ⟨-, hf⟩ | ⟨hpc, hnone, -⟩ | ⟨i, -, -, hf⟩
    · exact ⟨_, by rw [hf, finishTick_next]⟩
    · rw [hcfg] at hpc hnone
      obtain ⟨i, hi⟩ := hlegal _ hpc
      rw [hi] at hnone
      cases hnone
    · exact ⟨_, by rw [hf, exec_eq, finishTick_next]⟩

/-- Settles O50, by induction on the number of steps: every state met has the invariant and the program of the start. -/
theorem startedRunNeverFaults : Obligations.StartedRunNeverFaults := by
  refine ⟨fun s => Inv.step_safe, fun c k hc => ?_⟩
  induction k with
  | zero => exact ⟨_, rfl⟩
  | succ k ih =>
    obtain ⟨t, ht⟩ := ih
    have hreached : Reached c t := ⟨hc, k, ht⟩
    obtain ⟨-, -, hlegal⟩ := startCheck_eq_none hc
    rw [steps_succ k _ ht]
    exact hreached.inv.step_safe (hreached.cfg.symm ▸ hlegal)

/-- Settles O51: `R0` is 0 by the invariant, which Commit keeps. -/
theorem registerZeroStaysZero : Obligations.RegisterZeroStaysZero := by
  intro c t ht
  obtain ⟨hcommit, -⟩ := ht.inv.tick.commit ht.inv.latchEmpty
  exact ⟨ht.inv.r0, hcommit.data.r0⟩

/-- Settles O52: by the invariant of entries, and since a busy station's entry is there. -/
theorem writtenExactlyWhenReady : Obligations.WrittenExactlyWhenReady := by
  intro c t ht p
  refine ⟨fun e he => ?_, fun hnone => ⟨by simp [hnone], fun cl k st hst hrob => ?_⟩⟩
  · have hinv := ht.inv.entries p e he
    rw [or_iff_left hinv.notCommitted, hinv.writtenIffReady, RobEntry.ready, ← Option.isSome_iff_exists, and_self]
  · obtain ⟨e, he, -⟩ := (ht.inv.stations cl k st hst).backlink
    rw [hrob, hnone] at he
    cases he

/-- Some entry with a destination is the youngest one with it. -/
theorem QueueInv.exists_youngest {s : State} (h : QueueInv s) {r : Reg} {p : Nat} (hp : s.WritesReg r p) :
    ∃ q, s.WritesReg r q ∧ ∀ p', s.WritesReg r p' → s.age p' ≤ s.age q := by
  by_contra hnone
  have hclimb : ∀ n, ∃ q, s.WritesReg r q ∧ n ≤ s.age q := by
    intro n
    induction n with
    | zero => exact ⟨p, hp, Nat.zero_le _⟩
    | succ n ih =>
      obtain ⟨q, hq, hn⟩ := ih
      by_contra hmax
      refine hnone ⟨q, hq, fun p' hp' => ?_⟩
      by_contra hlt
      exact hmax ⟨p', hp', by omega⟩
  obtain ⟨q, -, hq⟩ := hclimb s.n
  exact absurd (s.age_lt (Nat.zero_lt_of_lt h.headLt) q) (Nat.not_lt.mpr hq)

/-- Settles O53: the mapping names the youngest writer, and where there is a writer there is a youngest. -/
theorem statNamesYoungestWriter : Obligations.StatNamesYoungestWriter := by
  intro c t ht
  have hq := ht.inv.tick.queue
  refine ⟨?_, fun r hr => ⟨fun p hp => ?_, fun hnone q e he hd => ?_⟩⟩
  · cases h0 : t.stat.get 0 with
    | none => rfl
    | some p => exact absurd rfl ((hq.youngest 0 p).mp h0).1
  · obtain ⟨-, ⟨e, he, hd⟩, hmax⟩ := (hq.youngest r p).mp hp
    exact ⟨(hq.occupied p).mp ⟨e, he⟩, ⟨e, he, hd⟩, fun q e' he' hd' => hmax q ⟨e', he', hd'⟩⟩
  · obtain ⟨p, hp, hmax⟩ := hq.exists_youngest ⟨e, he, hd⟩
    rw [(hq.youngest r p).mpr ⟨hr, hp, hmax⟩] at hnone
    cases hnone

end Sys2Proof.Machine
end

section
/-! The trace within a tick: the records and what they say of the entries and stations they belong to, from stage to stage
(10_state.md R42, R43, R47, 45_pipeline_driver.md R187, R191, R195). -/

namespace Sys2Proof.Machine

/-! ## Records -/

/-- `r'` is `r` with further stamps (R47). -/
def RecordKept (r r' : Record) : Prop :=
  r'.idx = r.idx ∧ r'.op = r.op ∧
    (∀ a, r.issued = some a → r'.issued = some a) ∧ (∀ a, r.execStart = some a → r'.execStart = some a) ∧
    (∀ a, r.execEnd = some a → r'.execEnd = some a) ∧ (∀ a, r.written = some a → r'.written = some a) ∧
    (∀ a, r.committed = some a → r'.committed = some a)

theorem RecordKept.refl (r : Record) : RecordKept r r :=
  ⟨rfl, rfl, fun _ => id, fun _ => id, fun _ => id, fun _ => id, fun _ => id⟩

theorem RecordsKept.of_trace_eq {s t : State} (h : t.trace = s.trace) : RecordsKept s t :=
  fun _ r hr => ⟨r, h ▸ hr, RecordKept.refl r⟩

theorem RecordsKept.trans {s t u : State} (h : RecordsKept s t) (h' : RecordsKept t u) : RecordsKept s u := by
  intro n r hr
  obtain ⟨r₁, hr₁, hidx, hop, hi, hs, he, hw, hc⟩ := h n r hr
  obtain ⟨r₂, hr₂, hidx', hop', hi', hs', he', hw', hc'⟩ := h' n r₁ hr₁
  exact ⟨r₂, hr₂, hidx'.trans hidx, hop'.trans hop, fun a ha => hi' a (hi a ha), fun a ha => hs' a (hs a ha),
    fun a ha => he' a (he a ha), fun a ha => hw' a (hw a ha), fun a ha => hc' a (hc a ha)⟩

theorem getElem?_modify_same (l : List Record) (n : Nat) (g : Record → Record) : (l.modify n g)[n]? = l[n]?.map g := by
  simp

theorem getElem?_modify_other (l : List Record) {n i : Nat} (g : Record → Record) (h : i ≠ n) :
    (l.modify n g)[i]? = l[i]? := by
  simp [h.symm]

/-- Setting stamps that were absent keeps every record. -/
theorem RecordsKept.of_modify {s t : State} {n : Nat} {g : Record → Record} (h : t.trace = s.trace.modify n g)
    (hg : ∀ r, s.trace[n]? = some r → RecordKept r (g r)) : RecordsKept s t := by
  intro i r hr
  rw [h]
  by_cases hi : i = n
  · subst hi
    exact ⟨g r, by rw [getElem?_modify_same, hr, Option.map_some], hg r hr⟩
  · exact ⟨r, by rw [getElem?_modify_other _ _ hi, hr], RecordKept.refl r⟩

/-- What holds of every record holds after one is changed, where it holds of the changed one. -/
theorem forall_record_modify {P : Record → Prop} {l : List Record} {n : Nat} {g : Record → Record}
    (h : ∀ (i : Nat) (r : Record), l[i]? = some r → P r) (hg : ∀ r, l[n]? = some r → P (g r)) :
    ∀ (i : Nat) (r : Record), (l.modify n g)[i]? = some r → P r := by
  intro i r hr
  by_cases hi : i = n
  · subst hi
    rw [getElem?_modify_same] at hr
    obtain ⟨r₀, hr₀, rfl⟩ := Option.map_eq_some_iff.mp hr
    exact hg r₀ hr₀
  · rw [getElem?_modify_other _ _ hi] at hr
    exact h i r hr

theorem RecordInv.next_cycle {c : Config} {n : Nat} {r : Record} (h : RecordInv c n r) : RecordInv c (n + 1) r where
  issued := by
    obtain ⟨a, ha, hle⟩ := h.issued
    exact ⟨a, ha, Nat.le_succ_of_le hle⟩
  execStart b hb := ⟨(h.execStart b hb).1, Nat.le_succ_of_le (h.execStart b hb).2⟩
  execEnd d hd := ⟨(h.execEnd d hd).1, Nat.le_succ_of_le (h.execEnd d hd).2⟩
  written w hw := ⟨(h.written w hw).1, Nat.le_succ_of_le (h.written w hw).2⟩
  committed f hf := ⟨(h.committed f hf).1, Nat.le_succ_of_le (h.committed f hf).2⟩

/-- All stamps of one kind lie before the current cycle: the stage that sets them has not run in this tick (R170). -/
def StampsBefore (s : State) (stamp : Record → Option Nat) : Prop :=
  ∀ (n : Nat) (r : Record), s.trace[n]? = some r → ∀ a, stamp r = some a → a < s.cycle

theorem StampsBefore.modify {s t : State} {stamp : Record → Option Nat} (h : StampsBefore s stamp)
    (hcycle : t.cycle = s.cycle) {n : Nat} {g : Record → Record} (htrace : t.trace = s.trace.modify n g)
    (hg : ∀ r, stamp (g r) = stamp r) : StampsBefore t stamp := by
  unfold StampsBefore
  rw [htrace, hcycle]
  exact forall_record_modify h fun r hr a ha => h n r hr a (hg r ▸ ha)

/-! ## The invariant of the trace within a tick -/

/-- The record of the entry in slot `p`: `written` is stamped when the result goes on the bus, a delivery ahead of the
entry's phase (R191, R193). -/
structure OwnRecord (s : State) (p : Nat) (e : RobEntry) (r : Record) : Prop where
  idx : r.idx = e.idx
  op : r.op = e.op
  committed : r.committed = none
  execStart : r.execStart.isSome = true ↔ e.phase ≠ .issued
  written : r.written.isSome = true ↔ (e.phase = .written ∨ s.OnBus p)

/-- The record of a begun station, which is `due` for its visit in this cycle or has had it (R186). -/
structure BegunRecord (s : State) (due : Prop) (st : Station) (r : Record) : Prop where
  running : 0 < st.left → r.execEnd = none ∧ ∃ b, r.execStart = some b ∧
    (due → s.cycle + st.left = b + s.cfg.lat.get st.op) ∧ (¬ due → s.cycle + 1 + st.left = b + s.cfg.lat.get st.op)
  finished : st.left = 0 → r.execEnd.isSome = true

/-- What holds of the trace at every point of a tick in which the stations `due` are still to be visited. -/
structure TickTrace (due : Opcode × Nat → Prop) (s : State) : Prop where
  records : ∀ (n : Nat) (r : Record), s.trace[n]? = some r → RecordInv s.cfg s.cycle r
  owned : ∀ p e, s.entry p = some e → ∃ r, s.trace[e.seq]? = some r ∧ OwnRecord s p e r
  begun : ∀ c k st e r, s.station c k = some st → st.started = true → s.entry st.rob = some e →
    s.trace[e.seq]? = some r → BegunRecord s (due (c, k)) st r

/-- No two slots hold one sequence number. -/
theorem RetireOrder.seq_ne {s : State} (h : RetireOrder s) {p q : Nat} {e f : RobEntry} (he : s.entry p = some e)
    (hf : s.entry q = some f) (hpq : p ≠ q) : e.seq ≠ f.seq := by
  have hp : s.seqAt p = some e.seq := by rw [State.seqAt, he]; rfl
  have hq : s.seqAt q = some f.seq := by rw [State.seqAt, hf]; rfl
  intro heq
  rcases Nat.lt_trichotomy (s.age p) (s.age q) with hlt | hage | hlt
  · exact absurd (h.seqRises p q _ _ hp hq hlt) (by omega)
  · exact hpq (s.age_inj h.headLt (h.inFlight p _ hp).1 (h.inFlight q _ hq).1 hage)
  · exact absurd (h.seqRises q p _ _ hq hp hlt) (by omega)

theorem OwnRecord.congr {s t : State} {p : Nat} {e e' : RobEntry} {r : Record} (h : OwnRecord s p e r)
    (hidx : e'.idx = e.idx) (hop : e'.op = e.op) (hphase : e'.phase = e.phase) (hbus : t.OnBus p ↔ s.OnBus p) :
    OwnRecord t p e' r where
  idx := h.idx.trans hidx.symm
  op := h.op.trans hop.symm
  committed := h.committed
  execStart := by rw [hphase]; exact h.execStart
  written := by rw [hphase, hbus]; exact h.written

theorem BegunRecord.congr {s t : State} {due due' : Prop} {st st' : Station} {r : Record}
    (h : BegunRecord s due st r) (hcfg : t.cfg = s.cfg) (hcycle : t.cycle = s.cycle) (hop : st'.op = st.op)
    (hleft : st'.left = st.left) (hdue : due' ↔ due) : BegunRecord t due' st' r where
  running := by
    rw [hleft, hcfg, hcycle, hop, hdue]
    exact h.running
  finished := by
    rw [hleft]
    exact h.finished

/-- The trace's part reads the configuration, the cycle, the trace, the slots, the pool and the latch. -/
theorem TickTrace.congr {due : Opcode × Nat → Prop} {s t : State} (h : TickTrace due s) (hcfg : t.cfg = s.cfg)
    (hcycle : t.cycle = s.cycle) (htrace : t.trace = s.trace) (hrob : t.rob = s.rob) (hrs : t.rs = s.rs)
    (hcdb : t.cdb = s.cdb) : TickTrace due t := by
  refine { records := ?_, owned := fun p e he => ?_, begun := fun c k st e r hst hs he hr => ?_ }
  · rw [htrace, hcfg, hcycle]
    exact h.records
  · rw [State.entry_congr hrob] at he
    obtain ⟨r, hr, hown⟩ := h.owned p e he
    exact ⟨r, htrace ▸ hr, hown.congr rfl rfl rfl (by rw [State.OnBus, hcdb, State.OnBus])⟩
  · rw [State.station_congr hrs] at hst
    rw [State.entry_congr hrob] at he
    rw [htrace] at hr
    exact (h.begun c k st e r hst hs he hr).congr hcfg hcycle rfl rfl Iff.rfl

/-! ## Commit (R195) -/

/-- An entry left by a retirement was there before, up to its `spec` bit, and was not the head. -/
theorem State.entry_of_retire {s : State} {e e' : RobEntry} {p : Nat} (h : (s.retire e).entry p = some e') :
    p ≠ s.head ∧ ∃ e₀ b, s.entry p = some e₀ ∧ e' = { e₀ with spec := b } := by
  rw [s.entry_retire_of_sideEffect] at h
  split at h
  · cases h
  · next hp =>
    obtain ⟨e₀, he₀, rfl⟩ := Option.map_eq_some_iff.mp h
    have hbefore : s.headCommitted.entry p = some e₀ := by
      rcases s.headCommitted.sideEffect_queue e with ⟨-, hrob⟩ | ⟨-, hentry⟩
      · rwa [State.entry_congr hrob] at he₀
      · rw [hentry] at he₀
        split at he₀
        · cases he₀
        · exact he₀
    rw [State.headCommitted, State.entry_modifyEntry, if_neg hp] at hbefore
    exact ⟨hp, e₀, _, hbefore, rfl⟩

/-- A station left by a retirement was there before. -/
theorem TickInv.station_of_retire {s : State} (h : TickInv s) {e : RobEntry} (he : s.entry s.head = some e)
    (hval : e.value.isSome = true) {c : Opcode} {k : Nat} {st : Station} (hst : (s.retire e).station c k = some st) :
    s.station c k = some st := by
  by_cases hm : e.mispredicted
  · rw [(h.emptied_of_mispredicted he hval hm).station] at hst
    cases hst
  · obtain ⟨-, -, -, hrs, -⟩ := s.retire_of_sideEffect e
    obtain ⟨hrs', -⟩ := s.headCommitted.sideEffect_keeps hm
    rwa [State.station_congr (hrs.trans hrs')] at hst

/-- A record that is written and then committed in a later cycle. -/
theorem RecordInv.commit {c : Config} {cycle : Nat} {r : Record} (h : RecordInv c cycle r) {w : Nat}
    (hw : r.written = some w) (hlt : w < cycle) : RecordInv c cycle (r.set .committed cycle) :=
  { h with
    committed := by
      rintro f hf
      cases hf
      exact ⟨⟨w, hw, hlt⟩, le_refl _⟩ }

theorem TickTrace.commit {due : Opcode × Nat → Prop} {s : State} (h : TickTrace due s) (hinv : TickInv s)
    (horder : RetireOrder s) (hbefore : StampsBefore s Record.written) :
    TickTrace due s.commit ∧ RecordsKept s s.commit := by
  rcases s.commit_cases with ⟨-, hc⟩ | ⟨e, hready, hc⟩ <;> rw [hc]
  · exact ⟨h, .of_trace_eq rfl⟩
  obtain ⟨-, he, hphase, hval⟩ := (s.readyHead_eq_some e).mp hready
  obtain ⟨hcfg, hcdb, hcycle, -⟩ := s.retire_frame e
  have htrace := s.trace_retire e
  obtain ⟨r, hr, hown⟩ := h.owned _ e he
  have hother : ∀ p e₀, p ≠ s.head → s.entry p = some e₀ → (s.retire e).trace[e₀.seq]? = s.trace[e₀.seq]? := by
    intro p e₀ hp he₀
    rw [htrace, getElem?_modify_other _ _ (horder.seq_ne he₀ he hp)]
  refine ⟨{ records := ?_, owned := fun p e' he' => ?_, begun := fun c k st e' r' hst hs he' hr' => ?_ },
    .of_modify htrace fun r₁ hr₁ => ?_⟩
  · obtain ⟨w, hw⟩ := Option.isSome_iff_exists.mp (hown.written.mpr (.inl hphase))
    rw [htrace, hcfg, hcycle]
    refine forall_record_modify h.records fun r₁ hr₁ => ?_
    cases hr.symm.trans hr₁
    exact (h.records _ r hr).commit hw (hbefore _ r hr w hw)
  · obtain ⟨hp, e₀, b, he₀, rfl⟩ := State.entry_of_retire he'
    obtain ⟨r₀, hr₀, hown₀⟩ := h.owned p e₀ he₀
    exact ⟨r₀, (hother p e₀ hp he₀).trans hr₀, hown₀.congr rfl rfl rfl (by rw [State.OnBus, hcdb, State.OnBus])⟩
  · obtain ⟨hp, e₀, b, he₀, rfl⟩ := State.entry_of_retire he'
    have hst₀ := hinv.station_of_retire he hval hst
    exact (h.begun c k st e₀ r' hst₀ hs he₀ ((hother _ e₀ hp he₀).symm.trans hr')).congr hcfg hcycle rfl rfl Iff.rfl
  · cases hr.symm.trans hr₁
    exact ⟨rfl, rfl, fun _ => id, fun _ => id, fun _ => id, fun _ => id, fun a ha => by simp [hown.committed] at ha⟩

/-! ## Write arbitration (R191) -/

/-- A record whose execution has ended and that is written in a later cycle. -/
theorem RecordInv.write {c : Config} {cycle : Nat} {r : Record} (h : RecordInv c cycle r) {d : Nat}
    (hd : r.execEnd = some d) (hlt : d < cycle) (hc : r.committed = none) :
    RecordInv c cycle (r.set .written cycle) :=
  { h with
    written := by
      rintro w hw
      cases hw
      exact ⟨⟨d, hd, hlt⟩, le_refl _⟩
    committed := by
      intro f hf
      rw [Option.mem_def, show (r.set .written cycle).committed = r.committed from rfl, hc] at hf
      cases hf }

theorem TickTrace.writeArbitrate {due : Opcode × Nat → Prop} {s : State} (h : TickTrace due s) (hinv : TickInv s)
    (hempty : s.cdb = none) (horder : RetireOrder s) (hbefore : StampsBefore s Record.execEnd) :
    TickTrace due s.writeArbitrate ∧ RecordsKept s s.writeArbitrate := by
  rcases s.writeArbitrate_cases with ⟨-, harb⟩ | ⟨c, hc, -⟩
  · rw [harb]
    exact ⟨h, .of_trace_eq rfl⟩
  obtain ⟨hcdb, hrs, htrace⟩ := State.writeArbitrate_of_candidate hc
  obtain ⟨hcfg, -, -, -, hrob, -, -, -, hcycle, -⟩ := s.writeArbitrate_frame
  obtain ⟨st, hst, hres, hback⟩ := (s.mem_candidates c).mp (s.oldestCandidate_spec.2 c hc).1
  obtain ⟨e, he, -, -, hphase, -⟩ := hinv.entry_of_station hst
  have hstarted := hinv.started_of_result hst (by simp [hres])
  rw [← hback, State.trace_stampEntry he] at htrace
  have hentry := State.entry_congr hrob
  have hbus : ∀ p, s.writeArbitrate.OnBus p ↔ p = st.rob := fun p => by simp [State.OnBus, hcdb, hback, eq_comm]
  have hstation : ∀ d k st', s.writeArbitrate.station d k = some st' →
      s.station d k = some st' ∧ st'.rob ≠ st.rob := by
    intro d k st' hst'
    rw [State.station_congr hrs, State.station_release] at hst'
    split at hst'
    · cases hst'
    · next hdk => exact ⟨hst', fun hrob' => hdk (hinv.station_unique hst hst' hrob')⟩
  obtain ⟨r, hr, hown⟩ := h.owned _ e he
  have hwritten : r.written = none := by
    rw [← Option.not_isSome_iff_eq_none, hown.written, hphase, if_pos hstarted]
    simp [State.not_onBus_of_empty hempty]
  have hother : ∀ p e₀, p ≠ st.rob → s.entry p = some e₀ → s.writeArbitrate.trace[e₀.seq]? = s.trace[e₀.seq]? := by
    intro p e₀ hp he₀
    rw [htrace, getElem?_modify_other _ _ (horder.seq_ne he₀ he hp)]
  refine ⟨{ records := ?_, owned := fun p e' he' => ?_, begun := fun d k st' e' r' hst' hs he' hr' => ?_ },
    .of_modify htrace fun r₁ hr₁ => ?_⟩
  · have hleft := (hinv.pool.stations _ _ st hst).resultReady.mp (by simp [hres])
    obtain ⟨d, hd⟩ := Option.isSome_iff_exists.mp ((h.begun _ _ st e r hst hstarted he hr).finished hleft)
    rw [htrace, hcfg, hcycle]
    refine forall_record_modify h.records fun r₁ hr₁ => ?_
    cases hr.symm.trans hr₁
    exact (h.records _ r hr).write hd (hbefore _ r hr d hd) hown.committed
  · rw [hentry] at he'
    by_cases hp : p = st.rob
    · subst hp
      cases he.symm.trans he'
      refine ⟨r.set .written s.cycle, by rw [htrace, getElem?_modify_same, hr, Option.map_some], ?_⟩
      exact
        { idx := hown.idx
          op := hown.op
          committed := hown.committed
          execStart := hown.execStart
          written := by simp [Record.set, hbus] }
    · obtain ⟨r₀, hr₀, hown₀⟩ := h.owned p e' he'
      refine ⟨r₀, (hother p e' hp he').trans hr₀, hown₀.congr rfl rfl rfl ?_⟩
      simp [hbus, hp, State.not_onBus_of_empty hempty]
  · rw [hentry] at he'
    obtain ⟨hst₀, hne⟩ := hstation d k st' hst'
    exact (h.begun d k st' e' r' hst₀ hs he' ((hother _ e' hne he').symm.trans hr')).congr hcfg hcycle rfl rfl Iff.rfl
  · cases hr.symm.trans hr₁
    exact ⟨rfl, rfl, fun _ => id, fun _ => id, fun _ => id, fun a ha => by simp [hwritten] at ha, fun _ => id⟩

/-! ## Execute (R186, R187) -/

/-- What a visit finds in the record of its station: execution has not ended, and with `execStart` as it is after the visit
the cycles left are those the latency asks for (R43, R187). -/
structure VisitRecord (s : State) (st : Station) (r : Record) : Prop where
  op : r.op = st.op
  execEnd : r.execEnd = none
  written : r.written = none
  committed : r.committed = none
  notBegun : st.started = false → r.execStart = none
  start : ∃ b, (Record.visited st s.cycle r).execStart = some b ∧ (∃ a ∈ r.issued, a < b) ∧ b ≤ s.cycle ∧
    s.cycle + st.left = b + s.cfg.lat.get st.op

theorem VisitRecord.visited {s : State} {st : Station} {r : Record} (h : VisitRecord s st r)
    (hrec : RecordInv s.cfg s.cycle r) : RecordInv s.cfg s.cycle (Record.visited st s.cycle r) := by
  obtain ⟨b, hb, hissued, hle, hclock⟩ := h.start
  refine { issued := hrec.issued, execStart := fun b' hb' => ?_, execEnd := fun d hd => ?_, written := fun w hw => ?_,
           committed := fun f hf => ?_ }
  · cases hb.symm.trans hb'
    exact ⟨hissued, hle⟩
  · simp only [Record.visited, Option.mem_def] at hd
    split at hd
    · next h1 =>
      cases hd
      refine ⟨⟨b, hb, hle, ?_⟩, le_refl _⟩
      show s.cycle + 1 = b + s.cfg.lat.get r.op
      rw [h.op, ← hclock, h1]
    · rw [h.execEnd] at hd
      cases hd
  · cases h.written.symm.trans hw
  · cases h.committed.symm.trans hf

/-- A visit sets no stamp that is there. -/
theorem VisitRecord.kept {s : State} {st : Station} {r : Record} (h : VisitRecord s st r) :
    RecordKept r (Record.visited st s.cycle r) := by
  refine ⟨rfl, rfl, fun _ => id, fun a ha => ?_, fun a ha => by simp [h.execEnd] at ha, fun _ => id, fun _ => id⟩
  cases hs : st.started with
  | true => simpa [Record.visited, hs] using ha
  | false => simp [h.notBegun hs] at ha

theorem VisitRecord.begunRecord {s t : State} {st : Station} {r : Record} (h : VisitRecord s st r)
    (hcfg : t.cfg = s.cfg) (hcycle : t.cycle = s.cycle) (hleft : st.left ≠ 0) {due : Prop} (hdue : ¬ due)
    (vj vk : Word) (mem : Memory) : BegunRecord t due (st.advanced vj vk mem) (Record.visited st s.cycle r) := by
  obtain ⟨b, hb, -, -, hclock⟩ := h.start
  refine { running := fun hpos => ?_, finished := fun h0 => ?_ } <;> simp only [Station.advanced] at *
  · have hne : st.left ≠ 1 := by omega
    refine ⟨by simp [Record.visited, hne, h.execEnd], b, hb, fun hd => absurd hd hdue, fun _ => ?_⟩
    rw [hcycle, hcfg]
    omega
  · have h1 : st.left = 1 := by omega
    simp [Record.visited, h1]

/-- The record of a station that is due for its visit, begun or beginning. -/
theorem TickTrace.record_of_visited {due : Opcode × Nat → Prop} {s t : State} {c : Opcode} {k : Nat} {st : Station}
    {vj vk : Word} (h : TickTrace due s) (hinv : TickInv s) (hbefore : StampsBefore s Record.issued)
    (hvisit : Visited s t c k st vj vk) (hdue : due (c, k)) :
    ∃ e r, s.entry st.rob = some e ∧ s.trace[e.seq]? = some r ∧ OwnRecord s st.rob e r ∧ VisitRecord s st r := by
  have hstinv := hinv.pool.stations c k st hvisit.station
  obtain ⟨e, he, hope, -, hphase, -⟩ := hinv.entry_of_station hvisit.station
  obtain ⟨r, hr, hown⟩ := h.owned _ e he
  have hrec := h.records _ r hr
  have hwritten : r.written = none := by
    rw [← Option.not_isSome_iff_eq_none, hown.written, hphase]
    simp only [hinv.not_onBus_of_station hvisit.station, or_false]
    split <;> decide
  have hnotBegun : st.started = false → r.execStart = none := fun hs => by
    rw [← Option.not_isSome_iff_eq_none, hown.execStart, hphase, hs]
    simp
  refine ⟨e, r, he, hr, hown, ?_⟩
  have hop : r.op = st.op := by rw [hown.op, hope, hstinv.opIsClass]
  cases hs : st.started with
  | true =>
    obtain ⟨hend, b, hb, hclock, -⟩ :=
      (h.begun c k st e r hvisit.station hs he hr).running (Nat.pos_of_ne_zero hvisit.left)
    obtain ⟨hissued, hle⟩ := hrec.execStart b hb
    exact ⟨hop, hend, hwritten, hown.committed, hnotBegun,
      b, by simp [Record.visited, hs, hb], hissued, hle, hclock hdue⟩
  | false =>
    have hend : r.execEnd = none := by
      cases hd : r.execEnd with
      | none => rfl
      | some d =>
        obtain ⟨⟨b, hb, -⟩, -⟩ := hrec.execEnd d hd
        rw [hnotBegun hs] at hb
        cases hb
    obtain ⟨a, ha, -⟩ := hrec.issued
    refine ⟨hop, hend, hwritten, hown.committed, hnotBegun,
      s.cycle, by simp [Record.visited, hs], ⟨a, ha, hbefore _ r hr a ha⟩, le_refl _, ?_⟩
    rw [hstinv.notBegun hs, hstinv.opIsClass]

/-- A begun station with cycles left is not passed over (R186). -/
theorem TickInv.left_of_visit_eq {s : State} (h : TickInv s) {c : Opcode} {k : Nat} (hv : s.visit (c, k) = s)
    {st : Station} (hst : s.station c k = some st) (hs : st.started = true) : st.left = 0 := by
  obtain ⟨hj, hk, -⟩ := (h.pool.stations c k st hst).begun hs
  by_contra hleft
  have hcount : ∃ vj vk, s.visit (c, k) = s.countDown c k st vj vk := by
    cases hvj : st.j with
    | waits q => simp [hvj, Operand.tag] at hj
    | value vj =>
      cases hvk : st.k with
      | waits q => simp [hvk, Operand.tag] at hk
      | value vk => exact ⟨vj, vk, by simp [State.visit, hst, hvj, hvk, hleft, State.visitReady, hs]⟩
  obtain ⟨vj, vk, hcd⟩ := hcount
  have hsame : s.station c k = some (st.advanced vj vk s.mem) := by
    rw [← hv, hcd, State.station_congr (s.rs_countDown c k st vj vk), State.station_setStation,
      if_pos ⟨rfl, rfl, s.station_lt hst⟩, ← hcd, hv]
  have := congrArg Station.left (Option.some.inj (hst.symm.trans hsame))
  simp only [Station.advanced] at this
  omega

/-- The visit of the next station that is due. -/
theorem TickTrace.visit {id : Opcode × Nat} {rest : List (Opcode × Nat)} (hid : id ∉ rest) {s : State}
    (h : TickTrace (· ∈ id :: rest) s) (hinv : TickInv s) (horder : RetireOrder s)
    (hbefore : StampsBefore s Record.issued) :
    TickTrace (· ∈ rest) (s.visit id) ∧ RecordsKept s (s.visit id) ∧ StampsBefore (s.visit id) Record.issued := by
  obtain ⟨c, k⟩ := id
  have hdue : ∀ d l, ¬ (d = c ∧ l = k) → ((d, l) ∈ rest ↔ (d, l) ∈ (c, k) :: rest) := by
    intro d l hne
    simp [List.mem_cons, hne]
  rcases hinv.visit_cases c k with hv | ⟨st, vj, vk, hvisit⟩
  · rw [hv]
    refine ⟨{ h with begun := fun d l st e r hst hs he hr => ?_ }, .of_trace_eq rfl, hbefore⟩
    have hbegun := h.begun d l st e r hst hs he hr
    by_cases hdl : d = c ∧ l = k
    · obtain ⟨rfl, rfl⟩ := hdl
      have h0 := hinv.left_of_visit_eq hv hst hs
      exact { running := fun hpos => absurd h0 (by omega), finished := hbegun.finished }
    · exact hbegun.congr rfl rfl rfl rfl (hdue d l hdl)
  obtain ⟨hcfg, -, -, -, -, -, -, hcdb, hcycle, -⟩ := s.visit_frame (c, k)
  obtain ⟨e, r, he, hr, hown, hnew⟩ := h.record_of_visited hinv hbefore hvisit List.mem_cons_self
  have htrace := hvisit.trace e he
  have hsame : (s.visit (c, k)).trace[e.seq]? = some (Record.visited st s.cycle r) := by
    rw [htrace, getElem?_modify_same, hr, Option.map_some]
  have hother : ∀ p e₀, p ≠ st.rob → s.entry p = some e₀ →
      (s.visit (c, k)).trace[e₀.seq]? = s.trace[e₀.seq]? := by
    intro p e₀ hp he₀
    rw [htrace, getElem?_modify_other _ _ (horder.seq_ne he₀ he hp)]
  have hbus : ∀ p, (s.visit (c, k)).OnBus p ↔ s.OnBus p := fun p => by rw [State.OnBus, hcdb, State.OnBus]
  refine ⟨{ records := ?_, owned := fun p e' he' => ?_, begun := fun d l st' e' r' hst' hs' he' hr' => ?_ },
    .of_modify htrace fun r₁ hr₁ => ?_, hbefore.modify hcycle htrace fun _ => rfl⟩
  · rw [htrace, hcfg, hcycle]
    refine forall_record_modify h.records fun r₁ hr₁ => ?_
    cases hr.symm.trans hr₁
    exact hnew.visited (h.records _ r hr)
  · obtain ⟨e₀, he₀, rfl⟩ := hvisit.entry_before he'
    by_cases hp : p = st.rob
    · subst hp
      cases he.symm.trans he₀
      rw [if_pos rfl]
      refine ⟨_, hsame, ?_⟩
      obtain ⟨b, hb, -⟩ := hnew.start
      exact
        { idx := hown.idx
          op := hown.op
          committed := hown.committed
          execStart := by simp [hb, RobEntry.executing]
          written := by
            rw [hbus]
            simp [Record.visited, hnew.written, RobEntry.executing, hinv.not_onBus_of_station hvisit.station] }
    · rw [if_neg hp]
      obtain ⟨r₀, hr₀, hown₀⟩ := h.owned p e₀ he₀
      exact ⟨r₀, (hother p e₀ hp he₀).trans hr₀, hown₀.congr rfl rfl rfl (hbus p)⟩
  · rw [hvisit.station_eq] at hst'
    split at hst'
    · next hdl =>
      obtain ⟨rfl, rfl⟩ := hdl
      cases hst'
      have hent : (s.visit (d, l)).entry st.rob = some e.executing := by rw [hvisit.entry_some he, if_pos rfl]
      cases hent.symm.trans he'
      cases hsame.symm.trans hr'
      exact hnew.begunRecord hcfg hcycle hvisit.left hid vj vk s.mem
    · next hdl =>
      obtain ⟨hne, hkept⟩ := hvisit.entry_of_other hinv hdl hst'
      rw [hkept] at he'
      exact (h.begun d l st' e' r' hst' hs' he' ((hother _ e' hne he').symm.trans hr')).congr hcfg hcycle rfl rfl
        (hdue d l hdl)
  · cases hr.symm.trans hr₁
    exact hnew.kept

theorem TickTrace.foldl_visit (l : List (Opcode × Nat)) (hl : l.Nodup) {s : State} (h : TickTrace (· ∈ l) s)
    (hinv : TickInv s) (horder : RetireOrder s) (hbefore : StampsBefore s Record.issued) :
    TickTrace (fun _ => False) (l.foldl State.visit s) ∧ RecordsKept s (l.foldl State.visit s) := by
  induction l generalizing s with
  | nil =>
    refine ⟨{ h with begun := fun c k st e r hst hs he hr => ?_ }, .of_trace_eq rfl⟩
    exact (h.begun c k st e r hst hs he hr).congr rfl rfl rfl rfl (by simp)
  | cons id rest ih =>
    obtain ⟨hid, hrest⟩ := List.nodup_cons.mp hl
    obtain ⟨h', hkept, hbefore'⟩ := h.visit hid hinv horder hbefore
    obtain ⟨h'', hkept'⟩ := ih hrest h' (hinv.visit id) (horder.of_sameOrder (s.visit_sameOrder id)) hbefore'
    exact ⟨h'', hkept.trans hkept'⟩

/-- Execute visits every busy station, so afterwards none is due. -/
theorem TickTrace.execute {s : State} (h : TickTrace (fun _ => True) s) (hinv : TickInv s) (horder : RetireOrder s)
    (hbefore : StampsBefore s Record.issued) :
    TickTrace (fun _ => False) s.execute ∧ RecordsKept s s.execute := by
  have hall : TickTrace (· ∈ s.stationIds) s :=
    { h with
      begun := fun c k st e r hst hs he hr => (h.begun c k st e r hst hs he hr).congr rfl rfl rfl rfl
        (iff_of_true ((s.mem_stationIds c k).mpr (s.station_lt hst)) trivial) }
  exact hall.foldl_visit _ s.stationIds_nodup hinv horder hbefore

/-! ## Issue and delivery (R183, R193) -/

theorem TickTrace.issue {s : State} (h : TickTrace (fun _ => False) s) (hinv : TickInv s) (i : Instr) :
    TickTrace (fun _ => False) (s.issue (requestOf s i)) ∧ RecordsKept s (s.issue (requestOf s i)) := by
  rcases s.issue_cases (requestOf s i) with ⟨hs, -⟩ | ⟨k, -, -, hk, hs⟩ <;> rw [hs]
  · exact ⟨h, .of_trace_eq rfl⟩
  obtain ⟨⟨hlen, -⟩, -⟩ := (s.tryAcquire_eq_some _ k).mp hk
  have hold : ∀ (n : Nat) (r : Record), s.trace[n]? = some r →
      (s.allocate (requestOf s i) k).trace[n]? = some r := by
    intro n r hr
    rw [State.allocate_trace, List.getElem?_append_left (List.getElem?_eq_some_iff.mp hr).1, hr]
  have hnew : (s.allocate (requestOf s i) k).trace[s.nseq]? = some (s.newRecord (requestOf s i)) := by
    rw [State.allocate_trace, ← hinv.data.traceLength]
    simp
  refine ⟨{ records := fun n r hr => ?_, owned := fun p e he => ?_, begun := fun c l st e r hst hst' he hr => ?_ },
    fun n r hr => ⟨r, hold n r hr, RecordKept.refl r⟩⟩
  · rw [State.allocate_trace, List.getElem?_append] at hr
    split at hr
    · exact h.records n r hr
    · obtain rfl : s.newRecord (requestOf s i) = r := by
        have := List.mem_of_getElem? hr
        simpa [eq_comm] using this
      exact
        { issued := ⟨s.cycle, rfl, le_refl _⟩
          execStart := fun b hb => by cases hb
          execEnd := fun d hd => by cases hd
          written := fun w hw => by cases hw
          committed := fun f hf => by cases hf }
  · rw [hinv.queue.entry_allocate] at he
    split at he
    · next hp =>
      subst hp
      cases he
      refine ⟨_, hnew, ?_⟩
      exact
        { idx := rfl
          op := rfl
          committed := rfl
          execStart := by simp [State.newRecord, State.newEntry]
          written := by
            have hoff : ¬ (s.allocate (requestOf s i) k).OnBus s.tail := hinv.not_onBus_tail
            simp [State.newRecord, State.newEntry, hoff] }
    · obtain ⟨r, hr, hown⟩ := h.owned p e he
      exact ⟨r, hold _ r hr, hown.congr rfl rfl rfl Iff.rfl⟩
  · rw [s.station_allocate _ k c l hlen] at hst
    split at hst
    · cases hst
      cases hst'
    · rw [hinv.queue.entry_allocate, if_neg (hinv.rob_ne_tail hst)] at he
      obtain ⟨r₀, hr₀, -⟩ := h.owned _ e he
      cases (hold _ r₀ hr₀).symm.trans hr
      exact (h.begun c l st e r hst hst' he hr₀).congr rfl rfl rfl rfl Iff.rfl

theorem TickTrace.writeDeliver {s : State} (h : TickTrace (fun _ => False) s) (hinv : TickInv s) :
    TickTrace (fun _ => False) s.writeDeliver := by
  obtain ⟨hcfg, -, -, -, -, -, -, hcycle, -, -, -, -, -, -, htrace, hcdb⟩ := s.writeDeliver_frame
  rcases hm : s.cdb with - | m
  · rcases s.writeDeliver_cases with ⟨-, hd⟩ | ⟨m, hm', -⟩
    · rw [hd]
      exact h
    · rw [hm] at hm'
      cases hm'
  have hentry := s.entry_writeDeliver hm
  have hon : ∀ p, s.OnBus p ↔ p = m.p := fun p => by simp [State.OnBus, hm, eq_comm]
  have hoff := State.not_onBus_of_empty hcdb
  refine { records := ?_, owned := fun p e' he' => ?_, begun := fun c k st' e' r hst' hs he' hr => ?_ }
  · rw [htrace, hcfg, hcycle]
    exact h.records
  · rw [hentry] at he'
    rw [htrace]
    split at he'
    · next hp =>
      obtain ⟨e, he, rfl⟩ := Option.map_eq_some_iff.mp he'
      obtain ⟨r, hr, hown⟩ := h.owned p e he
      obtain ⟨e₀, he₀, hphase, -⟩ := hinv.pool.latch m hm
      cases he₀.symm.trans (hp ▸ he)
      refine ⟨r, hr, ?_⟩
      exact
        { idx := hown.idx
          op := hown.op
          committed := hown.committed
          execStart := by simp [hown.execStart, hphase, RobEntry.deliver]
          written := by simp [hown.written, hon, hp, RobEntry.deliver] }
    · next hp =>
      obtain ⟨r, hr, hown⟩ := h.owned p e' he'
      exact ⟨r, hr, hown.congr rfl rfl rfl (iff_of_false (hoff p) fun hb => hp ((hon p).mp hb))⟩
  · rw [s.station_writeDeliver hm] at hst'
    obtain ⟨st, hst, rfl⟩ := Option.map_eq_some_iff.mp hst'
    have hne : st.rob ≠ m.p := fun heq => hinv.not_onBus_of_station hst ((hon _).mpr heq)
    have he : s.entry st.rob = some e' := by
      rw [← he', hentry]
      exact (if_neg hne).symm
    rw [htrace] at hr
    exact (h.begun c k st e' r hst hs he hr).congr hcfg hcycle rfl rfl Iff.rfl

end Sys2Proof.Machine
end

section
/-! The invariant of the trace: from tick boundary to tick boundary, at a start, and what it says of every reached state
(10_state.md R41, R42, R43, R47). -/

namespace Sys2Proof.Machine

/-! ## The tick boundary -/

/-- Of the invariant of the trace, what retirement in program order rests on. -/
theorem TraceInv.retireOrder {s : State} (h : TraceInv s) (hinv : Inv s) : RetireOrder s := by
  have hseqAt : ∀ p n, s.seqAt p = some n → ∃ e, s.entry p = some e ∧ e.seq = n ∧ s.InFlight p := by
    intro p n hp
    obtain ⟨e, he, hn⟩ := Option.map_eq_some_iff.mp hp
    exact ⟨e, he, hn, (hinv.entry_inFlight p).mp ⟨e, he⟩⟩
  have hcommitAt : ∀ i a, s.commitAt i = some a → ∃ r, s.trace[i]? = some r ∧ r.committed = some a :=
    fun i a hi => Option.bind_eq_some_iff.mp hi
  have hindex : ∀ (i : Nat) (r : Record), s.trace[i]? = some r → i < s.trace.length := fun i r hi =>
    (List.getElem?_eq_some_iff.mp hi).1
  refine { headLt := hinv.headLt, tailLt := hinv.tailLt, inFlight := fun p n hp => ?_, issued := fun p n hp => ?_,
           seqRises := fun p q m n hp hq hlt => ?_, past := fun i a hi => ?_,
           retiredOlder := fun p n i a hp hi => ?_, retiredInOrder := fun i j a b hij hi hj => ?_ }
  · obtain ⟨-, -, -, hin⟩ := hseqAt p n hp
    exact hin
  · obtain ⟨e, he, rfl, -⟩ := hseqAt p n hp
    exact (hinv.entries p e he).seqIssued
  · obtain ⟨e, he, rfl, hpin⟩ := hseqAt p m hp
    obtain ⟨f, hf, rfl, hqin⟩ := hseqAt q n hq
    exact h.seqRises p hpin.1 q hqin.1 e he f hf hlt
  · obtain ⟨r, hr, ha⟩ := hcommitAt i a hi
    exact ⟨hinv.traceLength ▸ hindex i r hr, ((h.records r (List.mem_of_getElem? hr)).committed a ha).2⟩
  · obtain ⟨e, he, rfl, hin⟩ := hseqAt p n hp
    obtain ⟨r, hr, ha⟩ := hcommitAt i a hi
    exact h.retiredOlder p hin.1 e he i (hindex i r hr) r hr (by simp [ha])
  · obtain ⟨r, hr, ha⟩ := hcommitAt i a hi
    obtain ⟨r', hr', hb⟩ := hcommitAt j b hj
    obtain ⟨hilt, rfl⟩ := List.getElem?_eq_some_iff.mp hr
    obtain ⟨hjlt, rfl⟩ := List.getElem?_eq_some_iff.mp hr'
    exact List.pairwise_iff_getElem.mp h.retiredInOrder i j hilt hjlt hij a ha b hb

/-- Where the next tick begins, in cycle `cycle + 1`, every busy station is due for a visit. -/
theorem TraceInv.next_cycle {s : State} (h : TraceInv s) (hinv : Inv s) :
    TickTrace (fun _ => True) { s with cycle := s.cycle + 1 } := by
  have hlt : ∀ p e, s.entry p = some e → p < s.n := fun p e he => ((hinv.entry_inFlight p).mp ⟨e, he⟩).1
  have hoff : ∀ p, ¬ State.OnBus { s with cycle := s.cycle + 1 } p := State.not_onBus_of_empty hinv.latchEmpty
  refine { records := fun n r hr => (h.records r (List.mem_of_getElem? hr)).next_cycle, owned := fun p e he => ?_,
           begun := fun c k st e r hst hs he hr => ?_ }
  · obtain ⟨r, hr, hidx, hop, hcommitted, hstart, hwritten⟩ := h.owned p (hlt p e he) e he
    exact ⟨r, hr, { idx := hidx, op := hop, committed := hcommitted, execStart := hstart,
                    written := by rw [or_iff_left (hoff p)]; exact hwritten }⟩
  · obtain ⟨b, hb, hrunning, hfinished⟩ :=
      h.begun st ((s.mem_busyStations st).mpr ⟨c, k, hst⟩) hs e he r hr
    refine { running := fun hpos => ⟨(hrunning hpos).1, b, hb, fun _ => (hrunning hpos).2, fun hf => absurd trivial hf⟩,
             finished := hfinished }

/-- No stamp found at the start of a tick is of its cycle. -/
theorem TraceInv.stampsBefore {s : State} (h : TraceInv s) :
    StampsBefore { s with cycle := s.cycle + 1 } Record.issued ∧
      StampsBefore { s with cycle := s.cycle + 1 } Record.execEnd ∧
      StampsBefore { s with cycle := s.cycle + 1 } Record.written := by
  refine ⟨fun n r hr a ha => ?_, fun n r hr d hd => ?_, fun n r hr w hw => ?_⟩ <;>
    have hrec := h.records r (List.mem_of_getElem? hr)
  · obtain ⟨a', ha', hle⟩ := hrec.issued
    cases ha.symm.trans ha'
    exact Nat.lt_succ_of_le hle
  · exact Nat.lt_succ_of_le (hrec.execEnd d hd).2
  · exact Nat.lt_succ_of_le (hrec.written w hw).2

/-- At the end of a tick the parts make up the invariant of the trace again. -/
theorem TickTrace.traceInv {s : State} (h : TickTrace (fun _ => False) s) (hinv : Inv s) (horder : RetireOrder s) :
    TraceInv s := by
  have hseqAt : ∀ p e, s.entry p = some e → s.seqAt p = some e.seq := fun p e he => by rw [State.seqAt, he]; rfl
  have hcommitAt : ∀ (i : Nat) r a, s.trace[i]? = some r → r.committed = some a → s.commitAt i = some a :=
    fun i r a hr ha => by rw [State.commitAt, hr]; exact ha
  refine { records := fun r hr => ?_, owned := fun p _ e he => ?_,
           seqRises := fun p _ q _ e he f hf hlt => ?_, begun := fun st hst hs e he r hr => ?_,
           retiredInOrder := ?_, retiredOlder := fun p _ e he n _ r hr hsome => ?_ }
  · obtain ⟨n, hn⟩ := List.getElem?_of_mem hr
    exact h.records n r hn
  · obtain ⟨r, hr, hown⟩ := h.owned p e he
    have hoff := State.not_onBus_of_empty hinv.latchEmpty p
    exact ⟨r, hr, hown.idx, hown.op, hown.committed, hown.execStart, hown.written.trans (or_iff_left hoff)⟩
  · exact horder.seqRises p q _ _ (hseqAt p e he) (hseqAt q f hf) hlt
  · obtain ⟨c, k, hst⟩ := (s.mem_busyStations st).mp hst
    have hbegun := h.begun c k st e r hst hs he hr
    by_cases hleft : st.left = 0
    · obtain ⟨d, hd⟩ := Option.isSome_iff_exists.mp (hbegun.finished hleft)
      obtain ⟨⟨b, hb, -⟩, -⟩ := (h.records _ r hr).execEnd d hd
      exact ⟨b, hb, fun hpos => absurd hleft (by omega), fun _ => by simp [hd]⟩
    · obtain ⟨hend, b, hb, -, hclock⟩ := hbegun.running (Nat.pos_of_ne_zero hleft)
      exact ⟨b, hb, fun _ => ⟨hend, hclock not_false⟩, fun h0 => absurd h0 hleft⟩
  · refine List.pairwise_iff_getElem.mpr fun i j hi hj hij a ha b hb => ?_
    exact horder.retiredInOrder i j a b hij (hcommitAt i _ a (List.getElem?_eq_getElem hi) ha)
      (hcommitAt j _ b (List.getElem?_eq_getElem hj) hb)
  · obtain ⟨a, ha⟩ := Option.isSome_iff_exists.mp hsome
    exact horder.retiredOlder p _ n a (hseqAt p e he) (hcommitAt n r a hr ha)

/-! ## The step -/

theorem RetireOrder.next_cycle {s : State} (h : RetireOrder s) : RetireOrder { s with cycle := s.cycle + 1 } :=
  { h with past := fun i a hi => ⟨(h.past i a hi).1, Nat.le_succ_of_le (h.past i a hi).2⟩ }

/-- Commit sets no other stamp than `committed`. -/
theorem StampsBefore.commit {s : State} {stamp : Record → Option Nat} (h : StampsBefore s stamp)
    (hstamp : ∀ r : Record, stamp (r.set .committed s.cycle) = stamp r) : StampsBefore s.commit stamp := by
  rcases s.commit_cases with ⟨-, hc⟩ | ⟨e, -, hc⟩ <;> rw [hc]
  · exact h
  · obtain ⟨-, -, hcycle, -⟩ := s.retire_frame e
    exact h.modify hcycle (s.trace_retire e) hstamp

/-- Write arbitration sets no other stamp than `written`. -/
theorem StampsBefore.writeArbitrate {s : State} {stamp : Record → Option Nat} (h : StampsBefore s stamp)
    (hstamp : ∀ r : Record, stamp (r.set .written s.cycle) = stamp r) : StampsBefore s.writeArbitrate stamp := by
  rcases s.writeArbitrate_cases with ⟨-, harb⟩ | ⟨c, hc, -⟩
  · rw [harb]
    exact h
  · obtain ⟨-, -, htrace⟩ := State.writeArbitrate_of_candidate hc
    obtain ⟨-, -, -, -, -, -, -, -, hcycle, -⟩ := s.writeArbitrate_frame
    cases he : s.entry c.rob with
    | some e =>
      rw [State.trace_stampEntry he] at htrace
      exact h.modify hcycle htrace hstamp
    | none =>
      have hsame : s.writeArbitrate.trace = s.trace := by simp [htrace, State.stampEntry, he]
      unfold StampsBefore
      rw [hsame, hcycle]
      exact h

/-- The trace after the stages before Issue, in the order of R170: no station is due any more, and no stamp was lost. -/
theorem TraceInv.beforeIssue {s : State} (h : TraceInv s) (hinv : Inv s) :
    TickTrace (fun _ => False) s.beforeIssue ∧ RecordsKept s s.beforeIssue := by
  have hnext : Inv { s with cycle := s.cycle + 1 } := hinv.congr_control rfl
  have horder := h.retireOrder hinv
  obtain ⟨hissued, hended, hwritten⟩ := h.stampsBefore
  obtain ⟨hcommit, hempty⟩ := hnext.tick.commit hnext.latchEmpty
  obtain ⟨hcommitted, hkept⟩ := (h.next_cycle hinv).commit hnext.tick horder.next_cycle hwritten
  obtain ⟨harbitrated, hkept'⟩ := hcommitted.writeArbitrate hcommit hempty horder.commit_nextCycle
    (hended.commit fun _ => rfl)
  obtain ⟨hexecuted, hkept''⟩ := harbitrated.execute (hcommit.writeArbitrate hempty)
    (horder.commit_nextCycle.of_sameOrder (State.writeArbitrate_sameOrder _))
    ((hissued.commit fun _ => rfl).writeArbitrate fun _ => rfl)
  have hstart : RecordsKept s { s with cycle := s.cycle + 1 } := .of_trace_eq rfl
  exact ⟨hexecuted, ((hstart.trans hkept).trans hkept').trans hkept''⟩

/-- What follows Issue leaves the records alone. -/
theorem TickTrace.afterIssue {s : State} (h : TickTrace (fun _ => False) s) (hinv : TickInv s) :
    TickTrace (fun _ => False) s.afterIssue ∧ RecordsKept s s.afterIssue := by
  have hdelivered := h.writeDeliver hinv
  obtain ⟨-, -, -, -, -, -, -, -, -, -, -, -, -, -, htrace, -⟩ := s.writeDeliver_frame
  rw [State.afterIssue]
  rcases s.writeDeliver.runControl_cases with ⟨-, hr⟩ | ⟨-, -, hr⟩ | ⟨-, -, hr⟩ <;> rw [hr]
  · exact ⟨hdelivered.congr rfl rfl rfl rfl rfl rfl, .of_trace_eq htrace⟩
  · exact ⟨hdelivered.congr rfl rfl rfl rfl rfl rfl, .of_trace_eq htrace⟩
  · exact ⟨hdelivered, .of_trace_eq htrace⟩

/-- A step keeps the invariant of the trace and every stamp. -/
theorem TraceInv.step {s t : State} (h : TraceInv s) (hinv : Inv s) (hst : Machine.step s = .next t) :
    TraceInv t ∧ RecordsKept s t := by
  have hinv' := everyStepKeepsInvariant s t hinv hst
  have horder' := (h.retireOrder hinv).step hst
  obtain ⟨hbefore, hkept⟩ := h.beforeIssue hinv
  rcases step_cases hst with ⟨-, ht⟩ | ⟨-, -, ⟨-, ht⟩ | ⟨i, hpc, hi, ht⟩⟩ <;> rw [ht] at hinv' horder' ⊢
  · exact ⟨h, .of_trace_eq rfl⟩
  · obtain ⟨hafter, hkept'⟩ := hbefore.afterIssue hinv.beforeIssue
    exact ⟨hafter.traceInv hinv' horder', hkept.trans hkept'⟩
  · obtain ⟨hissue, hkept'⟩ := hbefore.issue hinv.beforeIssue i
    obtain ⟨hafter, hkept''⟩ := hissue.afterIssue (hinv.beforeIssue.issue hpc hi)
    exact ⟨hafter.traceInv hinv' horder', (hkept.trans hkept').trans hkept''⟩

/-! ## Every reached state -/

/-- At a start the trace is empty and nothing is in flight. -/
theorem traceInv_started {c : Config} (hc : startCheck c = none) : TraceInv (State.started c) := by
  have hempty : TickTrace (fun _ => False) (State.started c) := by
    rw [started_of_check hc]
    have hentry : ∀ p, State.entry { State.initial c with run := true } p = none := State.entry_initial c
    refine { records := fun n r hr => ?_, owned := fun p e he => ?_, begun := fun cl k st e r _ _ he _ => ?_ }
    · simp [State.initial] at hr
    · simp [hentry] at he
    · simp [hentry] at he
  exact hempty.traceInv (invariantAtStart c hc) (retireOrder_started hc)

theorem Reached.traceInv {c : Config} {t : State} (h : Reached c t) : TraceInv t :=
  (reached_keeps (P := fun s => Inv s ∧ TraceInv s) (fun hc => ⟨invariantAtStart c hc, traceInv_started hc⟩)
    (fun s t hs hst => ⟨everyStepKeepsInvariant s t hs.1 hst, (hs.2.step hs.1 hst).1⟩) h).2

/-- Settles O56: the order of the stamps is what the invariant of the trace says of each record. -/
theorem stampsInOrder : Obligations.StampsInOrder := by
  refine ⟨fun c => traceInv_started, fun s t hinv h hst => h.step hinv hst, ?_⟩
  intro c t ht r hr a b d e f hissued hstart hend hwritten hcommitted
  have hrec := ht.traceInv.records r hr
  obtain ⟨⟨a', ha', hab⟩, -⟩ := hrec.execStart b hstart
  obtain ⟨⟨b', hb', hbd, -⟩, -⟩ := hrec.execEnd d hend
  obtain ⟨⟨d', hd', hde⟩, -⟩ := hrec.written e hwritten
  obtain ⟨⟨e', he', hef⟩, -⟩ := hrec.committed f hcommitted
  cases hissued.symm.trans ha'
  cases hstart.symm.trans hb'
  cases hend.symm.trans hd'
  cases hwritten.symm.trans he'
  exact ⟨hab, hbd, hde, hef⟩

/-- Settles O57: the clause of the invariant of the trace on `execEnd`. -/
theorem latencyIsExact : Obligations.LatencyIsExact := by
  intro c t ht r hr b d hstart hend
  obtain ⟨⟨b', hb', hbd, hlat⟩, -⟩ := (ht.traceInv.records r hr).execEnd d hend
  cases hstart.symm.trans hb'
  rw [ht.cfg] at hlat
  omega

end Sys2Proof.Machine
end

section
/-! The data memory: the image it starts from, the `STORE` at the head that writes it at Commit, and that nothing else in
a step writes it (20_memory.md R61, R62, R69, R70, R77; 45_pipeline_driver.md R195). -/

namespace Sys2Proof.Machine

/-! ## The memory image (R62, R77) -/

/-- A pair added at the end of the image is written last. -/
theorem Memory.ofImage_concat (image : List (Word × Word)) (a v : Word) :
    Memory.ofImage (image ++ [(a, v)]) = Memory.write (Memory.ofImage image) a v := by
  rw [Memory.ofImage, List.foldl_concat, Memory.ofImage]

/-- Settles O41: the last pair of the image is a write over the canonical memory of the pairs before it. -/
theorem memoryImageLaterPairWins : Obligations.MemoryImageLaterPairWins := by
  intro image a v
  have hwf := Memory.ofImage_wf image
  rw [Memory.ofImage_concat]
  exact ⟨rfl, Memory.read_write_same hwf a v, fun b hb => Memory.read_write_other hwf a b v hb⟩

/-! ## The side effect of a `STORE` (R69, R195) -/

theorem State.retireMemory_of_address (s : State) {e : RobEntry} {a v : Word} (hd : e.dest = .memory (some a))
    (hv : e.value = some v) : s.retireMemory e = s.writeMem a v := by
  simp [State.retireMemory, hd, hv]

/-- Retiring a `STORE` changes no word but the one at the entry's address, and that to the entry's value. -/
theorem State.retireMemory_changes_memory (s : State) (e : RobEntry) (a : Word) (hwf : Memory.wf s.mem)
    (h : Memory.read (s.retireMemory e).mem a ≠ Memory.read s.mem a) :
    e.dest = .memory (some a) ∧ e.value = some (Memory.read (s.retireMemory e).mem a) := by
  unfold State.retireMemory at h ⊢
  split at h
  · next b v hd hv =>
    rw [State.writeMem_mem] at h ⊢
    by_cases ha : a = b
    · subst ha
      exact ⟨hd, by rw [hv, Memory.read_write_same hwf]⟩
    · exact absurd (Memory.read_write_other hwf b a v ha) h
  · exact absurd rfl h

/-- A side effect changes a word of memory only where it is that of a `STORE` to its address (R69, R195). -/
theorem State.sideEffect_changes_memory (s : State) (e : RobEntry) (a : Word) (hwf : Memory.wf s.mem)
    (h : Memory.read (s.sideEffect e).mem a ≠ Memory.read s.mem a) :
    e.op = .store ∧ e.dest = .memory (some a) ∧ e.value = some (Memory.read (s.sideEffect e).mem a) := by
  rcases s.sideEffect_cases e with ⟨-, hs⟩ | ⟨hop, hs⟩ | ⟨-, hs⟩ | ⟨-, hs⟩ <;> rw [hs] at h ⊢
  · exact absurd (by rw [State.retireRegister_mem]) h
  · exact ⟨hop, s.retireMemory_changes_memory e a hwf h⟩
  · exact absurd (by rw [(retireRet_frame s e).2]) h
  · exact absurd (by rw [(retireBeq_frame s e).2]) h

/-! ## Retiring a head that is not mispredicted (R156, R195) -/

/-- The mappings are kept where the entry has no destination register. -/
theorem State.stat_retire_of_no_register (s : State) {e : RobEntry} (h : ¬ e.mispredicted)
    (hd : ∀ r, e.dest ≠ .register r) : (s.retire e).stat = s.stat :=
  PerReg.ext_get fun q => by rw [s.stat_retire h, if_neg fun hq => hd q hq.1]

/-- Whatever its opcode, an entry that is not mispredicted is retired with the frame of R156. -/
theorem State.retire_headRetired (s : State) {e : RobEntry} (h : ¬ e.mispredicted) :
    HeadRetired s (s.retire e) e := by
  obtain ⟨hcfg, hcdb, hcycle, hnseq, hstatus, hrun, hretired, hhead⟩ := s.retire_frame e
  obtain ⟨-, -, -, hrs, -⟩ := s.retire_of_sideEffect e
  obtain ⟨hrs', -, htail', -⟩ := s.headCommitted.sideEffect_keeps h
  exact
    { head := hhead
      popped := by rw [s.entry_retire h, if_pos rfl]
      emptyKept := fun p hp hnone => by rw [s.entry_retire h, if_neg hp, hnone, Option.map_none]
      entriesKept := fun p e' hp he' => ⟨_, by rw [s.entry_retire h, if_neg hp, he', Option.map_some]⟩
      stamped := fun rec hrec => by rw [s.trace_retire, List.getElem?_modify_eq, hrec]; rfl
      recordsKept := fun n hn => by rw [s.trace_retire, List.getElem?_modify_ne _ _ hn.symm]
      retired := hretired
      rest := ⟨hrs.trans hrs', (s.tail_retire e).trans htail', hcdb, hnseq, hcycle, hcfg, hstatus, hrun⟩ }

/-- Settles O28: the side effect is the one write, the rest is the frame of a retirement. -/
theorem commitWritesMemory : Obligations.CommitWritesMemory := by
  intro s e a v hready hop hd hv hwf
  have hkeep : ¬ e.mispredicted := fun ⟨hbeq, _⟩ => by simp [hop] at hbeq
  have hside : s.headCommitted.sideEffect e = s.headCommitted.writeMem a v := by
    rw [← s.headCommitted.retireMemory_of_address hd hv]
    simp [State.sideEffect, hop, retireStore]
  obtain ⟨hx, hmem, hpc, -, hbranches, hmispred, -⟩ := s.retire_of_sideEffect e
  rw [hside] at hx hmem hpc hbranches hmispred
  rw [State.commit_of_ready hready, hmem]
  exact ⟨Memory.read_write_same hwf a v, fun b hb => Memory.read_write_other hwf a b v hb, hx,
    s.stat_retire_of_no_register hkeep (by simp [hd]), hpc, hbranches, hmispred, s.retire_headRetired hkeep⟩

/-! ## What a step does to the memory (R69, R70) -/

/-- Commit changes a word of memory only where a ready head is a `STORE` to its address. -/
theorem State.commit_changes_memory (s : State) (a : Word) (hwf : Memory.wf s.mem)
    (h : Memory.read s.commit.mem a ≠ Memory.read s.mem a) :
    ∃ e, s.readyHead = some e ∧ e.op = .store ∧ e.dest = .memory (some a) ∧
      e.value = some (Memory.read s.commit.mem a) := by
  rcases s.commit_cases with ⟨-, hc⟩ | ⟨e, hready, hc⟩
  · exact absurd (by rw [hc]) h
  · obtain ⟨-, hmem, -⟩ := s.retire_of_sideEffect e
    rw [hc, hmem] at h ⊢
    exact ⟨e, hready, s.headCommitted.sideEffect_changes_memory e a hwf h⟩

/-- A step leaves the memory alone, or it is a tick from a state with the invariant and leaves it as Commit does. -/
theorem step_memory {s t : State} (h : step s = .next t) :
    t = s ∨ Inv s ∧ t.mem = (State.commit { s with cycle := s.cycle + 1 }).mem := by
  obtain ⟨-, hcommit⟩ := s.beforeIssue_of_commit
  rcases step_cases h with ⟨-, ht⟩ | ⟨-, hinv, ⟨-, ht⟩ | ⟨i, -, -, ht⟩⟩
  · exact .inl ht
  · obtain ⟨-, -, hafter⟩ := s.beforeIssue.afterIssue_frame
    exact .inr ⟨hinv, ht ▸ hafter.trans hcommit⟩
  · obtain ⟨-, -, hafter⟩ := (s.beforeIssue.issue (requestOf s.beforeIssue i)).afterIssue_frame
    obtain ⟨-, -, hissue⟩ := s.beforeIssue.issue_frame (requestOf s.beforeIssue i)
    exact .inr ⟨hinv, ht ▸ hafter.trans (hissue.trans hcommit)⟩

/-- Settles O33: the memory after a step is that after Commit. -/
theorem memoryChangesOnlyAtStoreCommit : Obligations.MemoryChangesOnlyAtStoreCommit := by
  intro s t a hst hne
  rcases step_memory hst with rfl | ⟨hinv, hmem⟩
  · exact absurd rfl hne
  · rw [hmem] at hne ⊢
    exact State.commit_changes_memory { s with cycle := s.cycle + 1 } a hinv.memory hne

end Sys2Proof.Machine
end

section
/-! The decoder by its cases: a reserved field that is not 0, an opcode above 8, and for each opcode the instruction read
from the fields that opcode uses (30_encoding.md R81, R82, R88). -/

namespace Sys2Proof

open Laws.EncodesLegally (opcodeNumber)

/-! ## The cases of the decoder -/

/-- The instruction of opcode `op` whose operands stand in the fields of `w` that `op` uses (R82). -/
def Opcode.instrOf (op : Opcode) (w : Diw) : Instr :=
  match op with
  | .load => .load (diwRA w) (diwRB w) (diwImm w)
  | .store => .store (diwRA w) (diwRB w) (diwImm w)
  | .beq => .beq (diwRA w) (diwRB w) (diwTarget w)
  | .call => .call (diwTarget w)
  | .ret => .ret
  | .add => .add (diwRA w) (diwRB w) (diwRC w)
  | .addi => .addi (diwRA w) (diwRB w) (diwImm w)
  | .nand => .nand (diwRA w) (diwRB w) (diwRC w)
  | .mul => .mul (diwRA w) (diwRB w) (diwRC w)

theorem opcodeNumber_le (op : Opcode) : opcodeNumber op ≤ 8 := by cases op <;> decide

/-- The opcode numbers of R82 are 0 to 8, without a gap. -/
theorem exists_opcodeNumber_eq {n : Nat} (h : n ≤ 8) : ∃ op, opcodeNumber op = n :=
  match n, h with
  | 0, _ => ⟨.load, rfl⟩
  | 1, _ => ⟨.store, rfl⟩
  | 2, _ => ⟨.beq, rfl⟩
  | 3, _ => ⟨.call, rfl⟩
  | 4, _ => ⟨.ret, rfl⟩
  | 5, _ => ⟨.add, rfl⟩
  | 6, _ => ⟨.addi, rfl⟩
  | 7, _ => ⟨.nand, rfl⟩
  | 8, _ => ⟨.mul, rfl⟩

theorem decode_of_reserved {w : Diw} (h : diwRsv w ≠ 0) : decode w = .error (.reservedField (diwRsv w)) := by
  rw [decode, if_pos h]

theorem decode_of_unknownOpcode {w : Diw} (hrsv : diwRsv w = 0) (hop : 8 < diwOpcode w) :
    decode w = .error (.unknownOpcode (diwOpcode w)) := by
  obtain ⟨n, hn⟩ := Nat.exists_eq_add_of_le' hop
  simp [decode, hrsv, hn]

theorem decode_of_opcodeNumber {w : Diw} {op : Opcode} (hrsv : diwRsv w = 0) (hop : diwOpcode w = opcodeNumber op) :
    decode w = .ok (op.instrOf w) := by
  cases op <;> simp [decode, hrsv, hop, opcodeNumber, Opcode.instrOf]

/-- Every word is of one of three kinds, each with the decoder's answer. -/
theorem decode_cases (w : Diw) :
    (diwRsv w ≠ 0 ∧ decode w = .error (.reservedField (diwRsv w))) ∨
      (diwRsv w = 0 ∧ 8 < diwOpcode w ∧ decode w = .error (.unknownOpcode (diwOpcode w))) ∨
      ∃ op, diwRsv w = 0 ∧ diwOpcode w = opcodeNumber op ∧ decode w = .ok (op.instrOf w) := by
  by_cases hrsv : diwRsv w = 0
  · rcases Nat.lt_or_ge 8 (diwOpcode w) with hop | hop
    · exact .inr (.inl ⟨hrsv, hop, decode_of_unknownOpcode hrsv hop⟩)
    · obtain ⟨op, h⟩ := exists_opcodeNumber_eq hop
      exact .inr (.inr ⟨op, hrsv, h.symm, decode_of_opcodeNumber hrsv h.symm⟩)
  · exact .inl ⟨hrsv, decode_of_reserved hrsv⟩

/-! ## Decoding an encoded instruction -/

/-- The encoder's word is legal and has the number of the instruction's opcode. -/
theorem encodesLegally (i : Instr) : Laws.EncodesLegally.Statement i := by
  cases i with
  | load rA rB imm => exact Laws.EncodesLegally.load rA rB imm
  | store rA rB imm => exact Laws.EncodesLegally.store rA rB imm
  | beq rA rB target => exact Laws.EncodesLegally.beq rA rB target
  | call target => exact Laws.EncodesLegally.call target
  | ret => exact Laws.EncodesLegally.ret
  | add rA rB rC => exact Laws.EncodesLegally.add rA rB rC
  | addi rA rB imm => exact Laws.EncodesLegally.addi rA rB imm
  | nand rA rB rC => exact Laws.EncodesLegally.nand rA rB rC
  | mul rA rB rC => exact Laws.EncodesLegally.mul rA rB rC

/-- The encoder puts each operand into the field the decoder reads it from. -/
theorem instrOf_encode (i : Instr) : i.opcode.instrOf (encode i) = i := by
  cases i <;>
    simp [Instr.opcode, Opcode.instrOf, encode, diwRA_diwOf, diwRB_diwOf, diwRC_diwOf, diwImm_diwOf, diwTarget_diwOf]

/-- Settles O2: the word is legal with the instruction's opcode, and each operand stands in its own field. -/
theorem decodeOfEncode : Obligations.DecodeOfEncode := by
  intro i
  obtain ⟨hop, hrsv⟩ := encodesLegally i
  rw [decode_of_opcodeNumber hrsv hop, instrOf_encode]

/-- Settles O1: each word is evaluated. -/
theorem tableWordsDecode : Obligations.TableWordsDecode := ⟨rfl, rfl, rfl, rfl, rfl, rfl, rfl, rfl, rfl⟩

/-! ## Illegal words -/

/-- The opcode is the topmost field, so nothing stands above it to be cut off. -/
theorem diwOpcode_eq_div (w : Diw) : diwOpcode w = w.toNat / 2 ^ 44 := by
  have hw := w.isLt
  rw [diwOpcode, diwBits]
  omega

/-- Settles O3: two of the decoder's three cases are errors, and the fields tell the three apart. -/
theorem illegalWordsExactly : Obligations.IllegalWordsExactly := by
  intro w
  have hrsvField : w.toNat / 2 ^ 32 % 8 = diwRsv w := rfl
  rw [← diwOpcode_eq_div, hrsvField]
  rcases decode_cases w with ⟨hrsv, hd⟩ | ⟨-, hop, hd⟩ | ⟨op, hrsv, hop, hd⟩ <;> rw [hd]
  · exact iff_of_true ⟨_, rfl⟩ (.inr hrsv)
  · exact iff_of_true ⟨_, rfl⟩ (.inl hop)
  · have hle := opcodeNumber_le op
    exact iff_of_false (by simp) (by omega)

/-! ## Fields an opcode does not use -/

/-- The instruction depends on the register, immediate and target fields of its opcode only (R82). -/
theorem instrOf_congr {w w' : Diw} (op : Opcode)
    (hAB : opcodeNumber op ∈ [0, 1, 2, 5, 6, 7, 8] → diwRA w = diwRA w' ∧ diwRB w = diwRB w')
    (hC : opcodeNumber op ∈ [5, 7, 8] → diwRC w = diwRC w')
    (himm : opcodeNumber op ∈ [0, 1, 6] → diwImm w = diwImm w')
    (htarget : opcodeNumber op ∈ [2, 3] → diwTarget w = diwTarget w') : op.instrOf w = op.instrOf w' := by
  cases op with
  | load | store | addi => simp [Opcode.instrOf, hAB (by decide), himm (by decide)]
  | beq => simp [Opcode.instrOf, hAB (by decide), htarget (by decide)]
  | call => simp [Opcode.instrOf, htarget (by decide)]
  | ret => rfl
  | add | nand | mul => simp [Opcode.instrOf, hAB (by decide), hC (by decide)]

/-- Settles O4: both words fall into the same case of the decoder, which reads the same fields from them. -/
theorem ignoredFieldsHaveNoEffect : Obligations.IgnoredFieldsHaveNoEffect := by
  intro w w' hopEq hrsvEq hAB hC himm htarget
  change diwOpcode w = diwOpcode w' at hopEq
  change diwRsv w = diwRsv w' at hrsvEq
  rcases decode_cases w with ⟨hrsv, hd⟩ | ⟨hrsv, hop, hd⟩ | ⟨op, hrsv, hop, hd⟩ <;> rw [hd]
  · rw [hrsvEq] at hrsv ⊢
    rw [decode_of_reserved hrsv]
  · rw [hrsvEq] at hrsv
    rw [hopEq] at hop ⊢
    rw [decode_of_unknownOpcode hrsv hop]
  · rw [decode_of_opcodeNumber (hrsvEq ▸ hrsv) (hopEq ▸ hop)]
    rw [show diwBits w 47 44 = opcodeNumber op from hop] at hAB hC himm htarget
    exact congrArg _ (instrOf_congr op (fun h => (hAB h).imp Fin.ext Fin.ext) (fun h => Fin.ext (hC h))
      (fun h => congrArg (BitVec.ofNat 16) (himm h)) (fun h => congrArg (BitVec.ofNat 16) (htarget h)))

end Sys2Proof
end

section
/-! When a step stops (30_encoding.md R88, 60_exceptions.md R256; U5, U10). -/

namespace Sys2Proof.Machine

/-- Everything a step can answer: a stopped engine keeps its state, a broken invariant and an illegal word inside the
program are the two faults, and every other tick goes on. -/
theorem step_outcomes (s : State) :
    (s.run = false ∧ step s = .next s) ∨
      (s.run = true ∧ ¬ Inv s ∧ step s = .fault .invariantViolation) ∨
      (s.run = true ∧ Inv s ∧ (s.beforeIssue.pc < s.cfg.progLen ∧ s.cfg.instrAt s.beforeIssue.pc.toNat = none) ∧
        step s = .fault .illegalWord) ∨
      (s.run = true ∧ Inv s ∧ ¬ (s.beforeIssue.pc < s.cfg.progLen ∧ s.cfg.instrAt s.beforeIssue.pc.toNat = none) ∧
        ∃ t, step s = .next t) := by
  cases hrun : s.run with
  | false => exact .inl ⟨rfl, step_stopped hrun⟩
  | true =>
    by_cases hinv : Inv s
    · obtain ⟨hcfg, -⟩ := s.beforeIssue_frame
      have hstep := step_running hrun hinv
      rcases s.beforeIssue.fetchIssue_cases with ⟨hpc, hf⟩ | ⟨hpc, hi, hf⟩ | ⟨i, hpc, hi, hf⟩ <;>
        rw [hcfg] at hpc <;> rw [hf] at hstep
      · exact .inr (.inr (.inr ⟨rfl, hinv, fun h => BitVec.not_lt.mpr hpc h.1, _, hstep⟩))
      · exact .inr (.inr (.inl ⟨rfl, hinv, ⟨hpc, hcfg ▸ hi⟩, hstep⟩))
      · rw [hcfg] at hi
        rw [exec_eq] at hstep
        exact .inr (.inr (.inr ⟨rfl, hinv, by simp [hi], _, hstep⟩))
    · exact .inr (.inl ⟨rfl, hinv, step_violation hrun hinv⟩)

/-- Settles O7: the four outcomes of a step exclude one another, and none is a refusal. -/
theorem stepStopsExactly : Obligations.StepStopsExactly := by
  intro s
  rcases step_outcomes s with ⟨hrun, hstep⟩ | ⟨hrun, hinv, hstep⟩ | ⟨hrun, hinv, hword, hstep⟩ |
    ⟨hrun, hinv, hword, t, hstep⟩ <;> rw [hstep]
  · simp [hrun]
  · simp [hrun, hinv]
  · simp [hrun, hinv, hword]
  · refine ⟨by simp [hinv], ?_, by simp⟩
    simpa [hrun, hinv] using hword

end Sys2Proof.Machine
end

section
/-! The predicted path: what one instruction on it does to a register and to a word of memory, and what the entries in
flight say of the path between two ages (70_reset_and_hazards.md R290). -/

namespace Sys2Proof.Machine

/-! ## One instruction -/

theorem Arch.reg_congr {a b : Arch} (h : a.x = b.x) (r : Reg) : a.reg r = b.reg r := by
  rw [Arch.reg, h, Arch.reg]

theorem Arch.reg_put (a : Arch) (r q : Reg) (v : Word) :
    (a.put r v).reg q = if r = q ∧ q ≠ 0 then v else a.reg q := by
  by_cases hq : q = 0
  · simp [Arch.reg, hq]
  · by_cases hr : r = 0
    · have hrq : r ≠ q := fun h => hq (h ▸ hr)
      simp [Arch.reg, Arch.put, hq, hr, hr ▸ hrq]
    · simp [Arch.reg, Arch.put, hq, hr, eq_comm]

/-- An instruction writes its value to the destination register of its entry, and no other register (R183, R195). -/
theorem Arch.effect_reg (a : Arch) {i : Instr} {e : RobEntry} (hd : destOk i e = true) (r : Reg) :
    (a.effect i).reg r = if e.dest = .register r ∧ r ≠ 0 then a.value i else a.reg r := by
  cases i with
  | store rA rB imm =>
    cases hdest : e.dest <;> simp [destOk, hdest] at hd
    simp [Arch.effect, Arch.reg]
  | beq | ret =>
    have hdest : e.dest = .none := by simpa [destOk] using hd
    simp [Arch.effect, hdest, Arch.reg]
  | call target =>
    have hdest : e.dest = .register 1 := by simpa [destOk] using hd
    have hput : (a.effect (.call target)).reg r = (a.put 1 (a.pc + 1)).reg r := rfl
    simp [hput, hdest, Arch.reg_put, Arch.value]
  | load rA | add rA | addi rA | nand rA | mul rA =>
    have hdest : e.dest = .register rA := by simpa [destOk] using hd
    simp [Arch.effect, hdest, Arch.reg_put, Arch.value]

theorem Arch.effect_wf {a : Arch} (h : Memory.wf a.mem) (i : Instr) : Memory.wf (a.effect i).mem := by
  cases i with
  | store rA rB imm => exact Memory.write_wf h _ _
  | _ => exact h

/-- Only a `STORE` to its address changes a word of memory (R69). -/
theorem Arch.effect_read {a : Arch} (hwf : Memory.wf a.mem) {i : Instr} {b : Word}
    (h : i.opcode = .store → a.address i ≠ some b) : Memory.read (a.effect i).mem b = Memory.read a.mem b := by
  cases i with
  | store rA rB imm =>
    exact Memory.read_write_other hwf _ _ _ fun hb => h rfl (by rw [hb]; rfl)
  | _ => rfl

theorem Arch.address_of_not_memory (a : Arch) {i : Instr} (hl : i.opcode ≠ .load) (hs : i.opcode ≠ .store) :
    a.address i = none := by
  cases i with
  | load => exact absurd rfl hl
  | store => exact absurd rfl hs
  | _ => rfl

/-! ## The path of the entries in flight -/

/-- The instruction an entry owns, of the program and with the entry's opcode and destination (R183). -/
structure Owns (s : State) (e : RobEntry) (i : Instr) : Prop where
  instrAt : s.cfg.instrAt e.idx.toNat = some i
  opcode : i.opcode = e.op
  dest : destOk i e = true

theorem QueueInv.owner {s : State} (h : QueueInv s) {p : Nat} {e : RobEntry} (he : s.entry p = some e) :
    ∃ i, Owns s e i := by
  obtain ⟨i, hi, hop, hd⟩ := (h.entries p e he).owner
  exact ⟨i, hi, hop, hd⟩

/-- The instruction at an entry's index is the one it owns. -/
theorem QueueInv.owns {s : State} (h : QueueInv s) {p : Nat} {e : RobEntry} (he : s.entry p = some e) {i : Instr}
    (hi : s.cfg.instrAt e.idx.toNat = some i) : Owns s e i := by
  obtain ⟨j, hj⟩ := h.owner he
  cases hi.symm.trans hj.instrAt
  exact hj

theorem QueueInv.slot_lt {s : State} (h : QueueInv s) {p : Nat} {e : RobEntry} (he : s.entry p = some e) : p < s.n :=
  ((h.occupied p).mp ⟨e, he⟩).1

/-- Every age below the count is that of an entry. -/
theorem QueueInv.exists_entry_of_age {s : State} (h : QueueInv s) {a : Nat} (ha : a < s.count) :
    ∃ p e, s.age p = a ∧ s.entry p = some e := by
  have hage := s.age_slot h.headLt (ha.trans (s.count_lt (Nat.zero_lt_of_lt h.headLt)))
  have hin : s.InFlight ((s.head + a) % s.n) := ⟨Nat.mod_lt _ (Nat.zero_lt_of_lt h.headLt), hage.symm ▸ ha⟩
  obtain ⟨e, he⟩ := (h.occupied _).mpr hin
  exact ⟨_, e, hage, he⟩

/-- After an instruction in flight the path goes on with its prediction. -/
theorem SimInv.follow_after {s : State} (h : SimInv s) (hq : QueueInv s) {p : Nat} {e : RobEntry}
    (he : s.entry p = some e) {i : Instr} (hi : s.cfg.instrAt e.idx.toNat = some i) :
    Arch.follow s.cfg (s.age p + 1) s.frontier = (s.archBefore p).predicted i := by
  refine Arch.follow_succ s.cfg (s.age p) s.frontier ?_
  rw [← hi, h.onPath p (hq.slot_lt he) e he]
  rfl

/-- A property of the architectural state that every entry of an age from `m` on keeps. -/
theorem SimInv.follow_keeps {s : State} (h : SimInv s) (hq : QueueInv s) {P : Arch → Prop} {m n : Nat} (hmn : m ≤ n)
    (hn : n ≤ s.count) (hm : P (Arch.follow s.cfg m s.frontier))
    (hstep : ∀ p e i, s.entry p = some e → Owns s e i → m ≤ s.age p → s.age p < n →
      P (s.archBefore p) → P ((s.archBefore p).predicted i)) : P (Arch.follow s.cfg n s.frontier) := by
  induction n, hmn using Nat.le_induction with
  | base => exact hm
  | succ n hle ih =>
    obtain ⟨p, e, hage, he⟩ := hq.exists_entry_of_age (Nat.lt_of_succ_le hn)
    obtain ⟨i, hi⟩ := hq.owner he
    have hbefore : P (s.archBefore p) := by
      rw [State.archBefore, hage]
      exact ih (Nat.le_of_succ_le hn) fun p e i he hi hle hlt => hstep p e i he hi hle (Nat.lt_succ_of_lt hlt)
    rw [← hage, h.follow_after hq he hi.instrAt]
    exact hstep p e i he hi (hage ▸ hle) (hage ▸ Nat.lt_succ_self n) hbefore

/-- A register that no entry from age `m` on writes is the same at the end of the path. -/
theorem SimInv.reg_of_unwritten {s : State} (h : SimInv s) (hq : QueueInv s) {r : Reg} {m : Nat} (hm : m ≤ s.count)
    (hr : r ≠ 0 → ∀ p, s.WritesReg r p → s.age p < m) :
    (Arch.follow s.cfg s.count s.frontier).reg r = (Arch.follow s.cfg m s.frontier).reg r := by
  refine h.follow_keeps hq (P := fun a => a.reg r = (Arch.follow s.cfg m s.frontier).reg r) hm le_rfl rfl ?_
  intro p e i he hi hle _ hbefore
  have hnot : ¬ (e.dest = .register r ∧ r ≠ 0) := fun ⟨hd, h0⟩ => Nat.not_lt.mpr hle (hr h0 p ⟨e, he, hd⟩)
  rw [← hbefore, Arch.reg_congr (Arch.predicted_x _ i), Arch.effect_reg _ hi.dest, if_neg hnot]

/-- At the end of the path a register holds the value of its youngest writer. -/
theorem SimInv.reg_of_youngest {s : State} (h : SimInv s) (hq : QueueInv s) {r : Reg} {p : Nat} {e : RobEntry}
    (hr : r ≠ 0) (he : s.entry p = some e) (hd : e.dest = .register r)
    (hmax : ∀ q, s.WritesReg r q → s.age q ≤ s.age p) {i : Instr} (hi : s.cfg.instrAt e.idx.toNat = some i) :
    (Arch.follow s.cfg s.count s.frontier).reg r = (s.archBefore p).value i := by
  have hage := ((hq.occupied p).mp ⟨e, he⟩).2
  rw [h.reg_of_unwritten hq hage fun _ q hw => Nat.lt_succ_of_le (hmax q hw), h.follow_after hq he hi,
    Arch.reg_congr (Arch.predicted_x _ i), Arch.effect_reg _ (hq.owns he hi).dest, if_pos ⟨hd, hr⟩]

/-- A word that no older `STORE` in flight writes is read before an entry as it stands in memory (R188). -/
theorem SimInv.read_of_unwritten {s : State} (h : SimInv s) (hq : QueueInv s) (hwf : Memory.wf s.mem) {n : Nat}
    (hn : n ≤ s.count) {b : Word}
    (hstores : ∀ p e i, s.entry p = some e → Owns s e i → s.age p < n → e.op = .store →
      (s.archBefore p).address i ≠ some b) :
    Memory.read (Arch.follow s.cfg n s.frontier).mem b = Memory.read s.mem b := by
  refine (h.follow_keeps hq (P := fun a => Memory.wf a.mem ∧ Memory.read a.mem b = Memory.read s.mem b)
    (Nat.zero_le n) hn ⟨hwf, rfl⟩ ?_).2
  intro p e i he hi _ hlt ⟨hwf', hread⟩
  rw [Arch.predicted_mem]
  exact ⟨Arch.effect_wf hwf' i,
    (Arch.effect_read hwf' fun hop => hstores p e i he hi hlt (hi.opcode.symm.trans hop)).trans hread⟩

end Sys2Proof.Machine
end

section
/-! The simulation within a tick: what of it each stage carries over, and the message on the bus, which carries the value
and the address of its instruction (45_pipeline_driver.md R170, R191; 70_reset_and_hazards.md R290). -/

namespace Sys2Proof.Machine

/-! ## States with one path -/

/-- The static index of the instruction in slot `p`. -/
def State.idxAt (s : State) (p : Nat) : Option Word := (s.entry p).map RobEntry.idx

theorem State.frontier_pc (s : State) :
    s.frontier.pc = if s.head = s.tail then s.pc else (s.idxAt s.head).getD s.pc := by
  rw [State.idxAt]
  simp only [State.frontier]
  cases s.entry s.head <;> rfl

theorem Arch.ext {a b : Arch} (hx : a.x = b.x) (hmem : a.mem = b.mem) (hpc : a.pc = b.pc) : a = b := by
  cases a
  cases b
  simp_all

/-- `t` has the committed state and the queue of `s` with the same instructions in it: all that the path is made of. -/
structure SamePath (s t : State) : Prop where
  cfg : t.cfg = s.cfg
  x : t.x = s.x
  mem : t.mem = s.mem
  pc : t.pc = s.pc
  head : t.head = s.head
  tail : t.tail = s.tail
  retired : t.retired = s.retired
  idxAt : ∀ p, t.idxAt p = s.idxAt p
  opAt : ∀ p, t.opAt p = s.opAt p

namespace SamePath
variable {s t : State}

theorem frontier (h : SamePath s t) : t.frontier = s.frontier :=
  Arch.ext h.x h.mem (by rw [State.frontier_pc, State.frontier_pc, h.head, h.tail, h.pc, h.idxAt])

theorem age (h : SamePath s t) (p : Nat) : t.age p = s.age p := State.age_congr h.cfg h.head p

theorem count (h : SamePath s t) : t.count = s.count := State.count_congr h.cfg h.head h.tail

theorem archBefore (h : SamePath s t) (p : Nat) : t.archBefore p = s.archBefore p := by
  rw [State.archBefore, h.cfg, h.age, h.frontier, State.archBefore]

theorem entry_before (h : SamePath s t) {p : Nat} {e' : RobEntry} (he' : t.entry p = some e') :
    ∃ e, s.entry p = some e ∧ e.idx = e'.idx ∧ e.op = e'.op := by
  have hidx := h.idxAt p
  have hop := h.opAt p
  rw [State.idxAt, State.idxAt, he'] at hidx
  rw [State.opAt, State.opAt, he'] at hop
  obtain ⟨e, he, hi⟩ := Option.map_eq_some_iff.mp hidx.symm
  rw [he] at hop
  exact ⟨e, he, hi, (Option.some.inj hop).symm⟩

theorem entry_after (h : SamePath s t) {p : Nat} {e : RobEntry} (he : s.entry p = some e) :
    ∃ e', t.entry p = some e' ∧ e'.idx = e.idx ∧ e'.op = e.op := by
  have hidx := h.idxAt p
  rw [State.idxAt, State.idxAt, he] at hidx
  obtain ⟨e', he', hi⟩ := Option.map_eq_some_iff.mp hidx
  obtain ⟨e₀, he₀, -, hop⟩ := h.entry_before he'
  cases he.symm.trans he₀
  exact ⟨e', he', hi, hop.symm⟩

end SamePath

/-! ## Entries -/

/-- What is delivered to the entry `e` in slot `p` is what the path gives: the clause of `SimInv` for one entry. -/
def DeliveredSim (s : State) (p : Nat) (e : RobEntry) : Prop :=
  ∀ i ∈ s.cfg.instrAt e.idx.toNat, e.value = none ∨ e.value = some ((s.archBefore p).value i) ∧
    (e.op = .store → e.dest = .memory ((s.archBefore p).address i))

theorem DeliveredSim.congr {s t : State} {p : Nat} {e e' : RobEntry} (h : DeliveredSim s p e) (hcfg : t.cfg = s.cfg)
    (harch : t.archBefore p = s.archBefore p) (hidx : e'.idx = e.idx) (hop : e'.op = e.op) (hdest : e'.dest = e.dest)
    (hvalue : e'.value = e.value) : DeliveredSim t p e' := by
  unfold DeliveredSim
  rw [hcfg, harch, hidx, hop, hdest, hvalue]
  exact h

theorem DeliveredSim.of_value_none {s : State} {p : Nat} {e : RobEntry} (h : e.value = none) : DeliveredSim s p e :=
  fun _ _ => .inl h

theorem SimInv.deliveredSim {s : State} (h : SimInv s) (hq : QueueInv s) {p : Nat} {e : RobEntry}
    (he : s.entry p = some e) : DeliveredSim s p e := h.delivered p (hq.slot_lt he) e he

/-- A state with the path of `s` simulates what `s` does, where its entries and stations hold what that path gives. -/
theorem SimInv.of_samePath {s t : State} (h : SimInv s) (hpath : SamePath s t)
    (hdelivered : ∀ p e, t.entry p = some e → DeliveredSim t p e)
    (hstations : ∀ c k st, t.station c k = some st → ∀ i ∈ t.cfg.instrAt st.idx.toNat, StationSim t st i) :
    SimInv t where
  frontier := by rw [hpath.cfg, hpath.retired, hpath.frontier, h.frontier]
  onPath p hp e' he' := by
    obtain ⟨e, he, hidx, -⟩ := hpath.entry_before he'
    rw [hpath.archBefore, ← hidx]
    exact h.onPath p (by rwa [State.n, hpath.cfg] at hp) e he
  fetch := by rw [hpath.pc, hpath.cfg, hpath.count, hpath.frontier, h.fetch]
  retYoungest p hp e' he' hop := by
    obtain ⟨e, he, -, hop'⟩ := hpath.entry_before he'
    rw [hpath.age, hpath.count]
    exact h.retYoungest p (by rwa [State.n, hpath.cfg] at hp) e he (hop'.trans hop)
  delivered p _ e he := hdelivered p e he
  stations st hst := by
    obtain ⟨c, k, hst'⟩ := (t.mem_busyStations st).mp hst
    exact hstations c k st hst'

/-! ## Stations -/

/-- Where `s` waits for a value, `t` has the same instruction on the same path, behind no `STORE` that `s` does not have
and that has forgotten its address. -/
structure PathKept (s t : State) : Prop where
  cfg : t.cfg = s.cfg
  entry : ∀ p e, s.entry p = some e → e.value = none →
    ∃ e', t.entry p = some e' ∧ e'.idx = e.idx ∧ t.archBefore p = s.archBefore p
  store : ∀ p e, s.entry p = some e → e.value = none → ∀ q f', t.entry q = some f' → f'.op = .store →
    t.age q < t.age p → ∃ f, s.entry q = some f ∧ f.op = .store ∧ s.age q < s.age p ∧
      (f'.dest = f.dest ∨ f.dest = .memory none)

/-- The word a slot stands for is kept where the entry it waits on is. -/
theorem PathKept.standsFor {s t : State} (hk : PathKept s t) {o : Operand}
    (ho : ∀ q, o = .waits q → ∃ e, s.entry q = some e ∧ e.value = none) : t.standsFor o = s.standsFor o := by
  cases o with
  | value v => rfl
  | waits q =>
    obtain ⟨e, he, hv⟩ := ho q rfl
    obtain ⟨e', he', hidx, harch⟩ := hk.entry q e he hv
    simp [State.standsFor, he, he', hidx, harch, hk.cfg]

theorem TagInv.entry {s : State} {rob : Nat} {o : Operand} (h : TagInv s rob o) (q : Nat) (hq : o = .waits q) :
    ∃ e, s.entry q = some e ∧ e.value = none := by
  obtain ⟨e, he, -, hv⟩ := h q hq
  exact ⟨e, he, hv⟩

/-- A busy station is kept with what it holds. -/
theorem SimInv.station_kept {s t : State} (h : SimInv s) (hinv : TickInv s) (hk : PathKept s t) {c : Opcode} {k : Nat}
    {st : Station} (hst : s.station c k = some st) : ∀ i ∈ t.cfg.instrAt st.idx.toNat, StationSim t st i := by
  intro i hi
  rw [hk.cfg] at hi
  have hsim := h.stations st ((s.mem_busyStations st).mpr ⟨c, k, hst⟩) i hi
  have hstinv := hinv.pool.stations c k st hst
  obtain ⟨e, he, -, -, -, hv, -⟩ := hinv.entry_of_station hst
  obtain ⟨-, -, -, harch⟩ := hk.entry _ e he hv
  refine { slotJ := ?_, slotK := ?_, immLoad := ?_, immStore := ?_, result := ?_,
           unblocked := fun hop hs q _ f' hf' hage hstore => ?_ } <;> rw [harch]
  · rw [hk.standsFor hstinv.tagJ.entry, hsim.slotJ]
  · rw [hk.standsFor hstinv.tagK.entry, hsim.slotK]
  · exact hsim.immLoad
  · exact hsim.immStore
  · exact hsim.result
  · obtain ⟨f, hf, hfop, hfage, hdest⟩ := hk.store _ e he hv q f' hf' hstore hage
    obtain ⟨hknown, hother⟩ := hsim.unblocked hop hs q (hinv.queue.slot_lt hf) f hf hfage hfop
    rw [hdest.resolve_right hknown]
    exact ⟨hknown, hother⟩

theorem SamePath.pathKept {s t : State} (h : SamePath s t)
    (hdest : ∀ q f f', s.entry q = some f → t.entry q = some f' → f.op = .store →
      f'.dest = f.dest ∨ f.dest = .memory none) : PathKept s t where
  cfg := h.cfg
  entry p e he _ := by
    obtain ⟨e', he', hidx, -⟩ := h.entry_after he
    exact ⟨e', he', hidx, h.archBefore p⟩
  store p e _ _ q f' hf' hop hage := by
    obtain ⟨f, hf, -, hfop⟩ := h.entry_before hf'
    rw [h.age, h.age] at hage
    exact ⟨f, hf, hfop.trans hop, hage, hdest q f f' hf hf' (hfop.trans hop)⟩

/-! ## The message on the bus -/

/-- The message on the bus carries the value and the address of its entry's instruction (R189, R191). -/
def BusSim (s : State) : Prop :=
  ∀ m e i, s.cdb = some m → s.entry m.p = some e → s.cfg.instrAt e.idx.toNat = some i →
    m.v = (s.archBefore m.p).value i ∧ m.a = (s.archBefore m.p).address i

theorem BusSim.of_empty {s : State} (h : s.cdb = none) : BusSim s := by
  intro m _ _ hm
  rw [h] at hm
  cases hm

/-- The message is for an entry without its value (R191). -/
theorem TickInv.entry_of_message {s : State} (h : TickInv s) {m : CdbMsg} (hm : s.cdb = some m) :
    ∃ e, s.entry m.p = some e ∧ e.value = none ∧ EntryInv s m.p e := by
  obtain ⟨e, he, hphase, -⟩ := h.pool.latch m hm
  have hinv := h.queue.entries m.p e he
  exact ⟨e, he, hinv.value_eq_none (by simp [hphase]), hinv⟩

theorem BusSim.kept {s t : State} (h : BusSim s) (hinv : TickInv s) (hk : PathKept s t) (hcdb : t.cdb = s.cdb) :
    BusSim t := by
  intro m e' i hm he' hi
  rw [hcdb] at hm
  obtain ⟨e, he, hv, -⟩ := hinv.entry_of_message hm
  obtain ⟨e₁, he₁, hidx, harch⟩ := hk.entry m.p e he hv
  cases he₁.symm.trans he'
  rw [hk.cfg, hidx] at hi
  rw [harch]
  exact h m e i hm he hi

/-- The simulation at every point of a tick. -/
structure TickSim (s : State) : Prop where
  sim : SimInv s
  bus : BusSim s

end Sys2Proof.Machine
end

section
/-! Write arbitration keeps the simulation: it leaves the path alone and puts a computed result on the bus
(45_pipeline_driver.md R191). -/

namespace Sys2Proof.Machine

/-! ## Write arbitration (R191) -/

theorem State.idxAt_congr {s t : State} (h : t.rob = s.rob) (p : Nat) : t.idxAt p = s.idxAt p := by
  rw [State.idxAt, State.entry_congr h, State.idxAt]

theorem State.opAt_congr {s t : State} (h : t.rob = s.rob) (p : Nat) : t.opAt p = s.opAt p := by
  rw [State.opAt, State.entry_congr h, State.opAt]

theorem SamePath.of_rob_eq {s t : State} (hcfg : t.cfg = s.cfg) (hx : t.x = s.x) (hmem : t.mem = s.mem)
    (hpc : t.pc = s.pc) (hrob : t.rob = s.rob) (hhead : t.head = s.head) (htail : t.tail = s.tail)
    (hretired : t.retired = s.retired) : SamePath s t :=
  ⟨hcfg, hx, hmem, hpc, hhead, htail, hretired, State.idxAt_congr hrob, State.opAt_congr hrob⟩

/-- A stage that leaves the slots, the queue and the committed state alone and busies no station. -/
theorem SimInv.of_rob_eq {s t : State} (h : SimInv s) (hinv : TickInv s) (hpath : SamePath s t) (hrob : t.rob = s.rob)
    (hstation : ∀ c k st, t.station c k = some st → s.station c k = some st) : SimInv t := by
  have hentry := State.entry_congr hrob
  have hkept : PathKept s t := hpath.pathKept fun q f f' hf hf' _ => by
    rw [hentry, hf] at hf'
    cases hf'
    exact .inl rfl
  refine h.of_samePath hpath (fun p e he => ?_) fun c k st hst => h.station_kept hinv hkept (hstation c k st hst)
  rw [hentry] at he
  exact (h.deliveredSim hinv.queue he).congr hpath.cfg (hpath.archBefore p) rfl rfl rfl rfl

theorem TickSim.writeArbitrate {s : State} (h : SimInv s) (hinv : TickInv s) (hempty : s.cdb = none) :
    TickSim s.writeArbitrate := by
  obtain ⟨hcfg, hx, hmem, hpc, hrob, hhead, htail, -, -, hretired, -⟩ := s.writeArbitrate_frame
  have hpath := SamePath.of_rob_eq hcfg hx hmem hpc hrob hhead htail hretired
  refine ⟨h.of_rob_eq hinv hpath hrob fun c k st hst => ?_, ?_⟩
  · rw [s.station_writeArbitrate] at hst
    split at hst
    · cases hst
    · exact hst
  · rcases s.writeArbitrate_cases with ⟨-, harb⟩ | ⟨c, hc, -⟩
    · rw [harb]
      exact .of_empty hempty
    · obtain ⟨hcdb, -⟩ := State.writeArbitrate_of_candidate hc
      obtain ⟨st, hst, hres, hback⟩ := (s.mem_candidates c).mp (s.oldestCandidate_spec.2 c hc).1
      obtain ⟨e, he, -, hidx, -⟩ := hinv.entry_of_station hst
      intro m e' i hm he' hi
      cases hcdb.symm.trans hm
      rw [State.entry_congr hrob, ← hback, he] at he'
      cases he'
      rw [hcfg, hidx] at hi
      have hresult := (h.stations st ((s.mem_busyStations st).mpr ⟨_, _, hst⟩) i hi).result
      rw [hres, or_iff_right (by simp), Option.some_inj, hback] at hresult
      rw [hpath.archBefore, hresult]
      exact ⟨rfl, rfl⟩

end Sys2Proof.Machine
end

section
/-! Execute and delivery keep the simulation: a computed result is that of the instruction, and delivery hands it to the
entry and to the stations that wait on it (45_pipeline_driver.md R186 to R193). -/

namespace Sys2Proof.Machine

/-! ## Execute (R186 to R189) -/

theorem State.idxAt_modifyEntry (s : State) (p q : Nat) {f : RobEntry → RobEntry} (hf : ∀ e, (f e).idx = e.idx) :
    (s.modifyEntry p f).idxAt q = s.idxAt q := by
  rw [State.idxAt, State.entry_modifyEntry, State.idxAt]
  split
  · cases s.entry q <;> simp [hf]
  · rfl

theorem State.opAt_modifyEntry (s : State) (p q : Nat) {f : RobEntry → RobEntry} (hf : ∀ e, (f e).op = e.op) :
    (s.modifyEntry p f).opAt q = s.opAt q := by
  rw [State.opAt, State.entry_modifyEntry, State.opAt]
  split
  · cases s.entry q <;> simp [hf]
  · rfl

theorem Visited.samePath {s : State} {c : Opcode} {k : Nat} {st : Station} {vj vk : Word}
    (h : Visited s (s.visit (c, k)) c k st vj vk) : SamePath s (s.visit (c, k)) := by
  obtain ⟨hcfg, hx, hmem, hpc, hhead, htail, -, -, -, hretired, -⟩ := s.visit_frame (c, k)
  refine ⟨hcfg, hx, hmem, hpc, hhead, htail, hretired, fun p => ?_, fun p => ?_⟩
  · rw [State.idxAt, h.entry]
    exact s.idxAt_modifyEntry st.rob p fun _ => rfl
  · rw [State.opAt, h.entry]
    exact s.opAt_modifyEntry st.rob p fun _ => rfl

theorem Visited.pathKept {s : State} {c : Opcode} {k : Nat} {st : Station} {vj vk : Word}
    (h : Visited s (s.visit (c, k)) c k st vj vk) : PathKept s (s.visit (c, k)) :=
  h.samePath.pathKept fun q f f' hf hf' _ => by
    rw [h.entry_some hf] at hf'
    cases hf'
    exact .inl (by split <;> rfl)

/-- Only a `LOAD` reads the memory, at its effective address (R69, R189). -/
theorem Station.evaluate_congr_mem (st : Station) (vj vk : Word) {m m' : Memory}
    (h : st.op = .load → Memory.read m (effectiveAddress vj st.imm) = Memory.read m' (effectiveAddress vj st.imm)) :
    st.evaluate vj vk m = st.evaluate vj vk m' := by
  unfold Station.evaluate
  cases hop : st.op with
  | load => simp [resultLoad, h hop]
  | _ => rfl

/-- A load that the disambiguation test lets pass is behind no `STORE` to its address or to an unknown one (R188). -/
theorem State.store_of_not_heldBack {s : State} (hh : s.head < s.n) {st : Station} {vj : Word}
    (h : s.heldBack st vj = false) (hop : st.op = .load) {q : Nat} {f : RobEntry} (hq : s.InFlight q)
    (hf : s.entry q = some f) (hage : s.age q < s.age st.rob) (hstore : f.op = .store) :
    f.dest ≠ .memory none ∧ f.dest ≠ .memory (some (effectiveAddress vj st.imm)) := by
  have hpass : f.holdsLoad (effectiveAddress vj st.imm) = false := by
    simp only [State.heldBack, hop, State.loadBlocked, beq_self_eq_true, Bool.true_and, List.any_eq_false,
      List.mem_filter, s.mem_inFlight hh, decide_eq_true_eq, and_imp] at h
    simpa [hf] using h q hq hage
  constructor <;> rintro hd <;> simp [RobEntry.holdsLoad, hstore, hd] at hpass

/-- The visit of a load that is held back does nothing (R186, R188). -/
theorem State.visit_of_heldBack {s : State} {c : Opcode} {k : Nat} {st : Station} {vj : Word}
    (hst : s.station c k = some st) (hj : st.j = .value vj) (hs : st.started = false)
    (hheld : s.heldBack st vj = true) : s.visit (c, k) = s := by
  rcases s.visit_cases c k with h | ⟨st', vj', vk', hst', hj', -, -, ⟨hs', -⟩ | ⟨-, hpass, -⟩⟩
  · exact h
  · cases hst.symm.trans hst'
    simp [hs] at hs'
  · cases hst.symm.trans hst'
    cases hj.symm.trans hj'
    simp [hheld] at hpass

/-- A slot that holds a word stands for that word. -/
theorem State.eq_of_standsFor {s : State} {o : Operand} {v w : Word} (ho : o = .value v)
    (h : s.standsFor o = some w) : v = w := by
  subst ho
  exact Option.some.inj h

/-- Every older `STORE` in flight has a known address, another than `ea` (R188). -/
def Unblocked (s : State) (rob : Nat) (ea : Option Word) : Prop :=
  ∀ q e, s.entry q = some e → s.age q < s.age rob → e.op = .store → e.dest ≠ .memory none ∧ e.dest ≠ .memory ea

/-- An unblocked load reads in memory what the path holds at its address. -/
theorem SimInv.read_of_unblocked {s : State} (h : SimInv s) (hinv : TickInv s) {rob : Nat} (hrob : s.age rob ≤ s.count)
    {ea : Word} (hopen : Unblocked s rob (some ea)) :
    Memory.read (s.archBefore rob).mem ea = Memory.read s.mem ea := by
  refine h.read_of_unwritten hinv.queue hinv.data.memory hrob fun p e i he hi hage hop haddr => ?_
  obtain ⟨hknown, hother⟩ := hopen p e he hage hop
  obtain ⟨a, hdest, ha⟩ := (hinv.queue.entries p e he).dest_of_store hop
  rcases h.deliveredSim hinv.queue he i hi.instrAt with hv | ⟨-, hd⟩
  · rw [hv, Option.isSome_none, Option.isSome_eq_false_iff, Option.isNone_iff_eq_none] at ha
    exact hknown (ha ▸ hdest)
  · exact hother ((hd hop).trans (congrArg Dest.memory haddr))

/-- The instruction of a busy station's index has the station's opcode (R6, R44). -/
theorem TickInv.opcode_of_station {s : State} (h : TickInv s) {c : Opcode} {k : Nat} {st : Station}
    (hst : s.station c k = some st) {i : Instr} (hi : s.cfg.instrAt st.idx.toNat = some i) : i.opcode = st.op := by
  obtain ⟨e, he, hop, hidx, -⟩ := h.entry_of_station hst
  rw [(h.queue.owns he (hidx ▸ hi)).opcode, hop, (h.pool.stations c k st hst).opIsClass]

/-- Where a load is unblocked, a station with both operands computes its instruction's value and address (R189). -/
theorem SimInv.evaluate_eq {s : State} (h : SimInv s) (hinv : TickInv s) {c : Opcode} {k : Nat} {st : Station}
    (hst : s.station c k = some st) {i : Instr} (hi : s.cfg.instrAt st.idx.toNat = some i) {vj vk : Word}
    (hj : st.j = .value vj) (hk : st.k = .value vk)
    (hopen : st.op = .load → Unblocked s st.rob ((s.archBefore st.rob).address i)) :
    st.evaluate vj vk s.mem = ⟨(s.archBefore st.rob).value i, (s.archBefore st.rob).address i⟩ := by
  have hsim := h.stations st ((s.mem_busyStations st).mpr ⟨c, k, hst⟩) i hi
  obtain ⟨e, he, -, hidx, -⟩ := hinv.entry_of_station hst
  have hop := hinv.opcode_of_station hst hi
  have hvj : vj = ((s.archBefore st.rob).sources i).1 := State.eq_of_standsFor hj hsim.slotJ
  have hvk : vk = ((s.archBefore st.rob).sources i).2 := State.eq_of_standsFor hk hsim.slotK
  have hmem : st.evaluate vj vk s.mem = st.evaluate vj vk (s.archBefore st.rob).mem := by
    refine st.evaluate_congr_mem vj vk fun hload => ?_
    have haddr := hsim.immLoad hload
    rw [← hvj] at haddr
    exact (h.read_of_unblocked hinv ((hinv.queue.occupied _).mp ⟨e, he⟩).2.le (haddr ▸ hopen hload)).symm
  rw [hmem, hvj, hvk]
  refine st.evaluate_eq (s.archBefore st.rob) i hop.symm ?_ fun ea hea => ?_
  · rw [← h.onPath _ (hinv.queue.slot_lt he) e he, hidx]
  · by_cases hstore : st.op = .store
    · rw [if_pos hstore]
      exact Option.some.inj (hea.symm.trans (hsim.immStore hstore))
    · rw [if_neg hstore]
      by_cases hload : st.op = .load
      · exact Option.some.inj (hea.symm.trans (hsim.immLoad hload))
      · rw [Arch.address_of_not_memory _ (hop ▸ hload) (hop ▸ hstore)] at hea
        cases hea

/-- A load that executes is unblocked: since it began, or by the test it passes now (R188). -/
theorem SimInv.unblocked_of_executing {s : State} (h : SimInv s) (hinv : TickInv s) {c : Opcode} {k : Nat}
    {st : Station} (hst : s.station c k = some st) {i : Instr} (hi : s.cfg.instrAt st.idx.toNat = some i) {vj : Word}
    (hj : st.j = .value vj) (hpass : st.started = false → s.heldBack st vj = false) (hop : st.op = .load) :
    Unblocked s st.rob ((s.archBefore st.rob).address i) := by
  have hsim := h.stations st ((s.mem_busyStations st).mpr ⟨c, k, hst⟩) i hi
  intro q f hf hage hstore
  cases hs : st.started with
  | true => exact hsim.unblocked hop hs q (hinv.queue.slot_lt hf) f hf hage hstore
  | false =>
    have hvj : vj = ((s.archBefore st.rob).sources i).1 := State.eq_of_standsFor hj hsim.slotJ
    rw [hsim.immLoad hop, ← hvj]
    exact State.store_of_not_heldBack hinv.queue.headLt (hpass hs) hop ((hinv.queue.occupied q).mp ⟨f, hf⟩) hf hage
      hstore

/-- The visited station, one cycle of execution on. -/
theorem SimInv.station_advanced {s : State} (h : SimInv s) (hinv : TickInv s) {c : Opcode} {k : Nat} {st : Station}
    {vj vk : Word} (hv : Visited s (s.visit (c, k)) c k st vj vk)
    (hpass : st.started = false → s.heldBack st vj = false) :
    ∀ i ∈ (s.visit (c, k)).cfg.instrAt st.idx.toNat,
      StationSim (s.visit (c, k)) (st.advanced vj vk s.mem) i := by
  intro i hi
  have hkept := h.station_kept hinv hv.pathKept hv.station i hi
  have hpath := hv.samePath
  have hi' : s.cfg.instrAt st.idx.toNat = some i := hpath.cfg ▸ hi
  have hopen := h.unblocked_of_executing hinv hv.station hi' hv.slotJ hpass
  refine { hkept with result := ?_, unblocked := fun hop _ q _ f' hf' hage hstore => ?_ }
  · simp only [Station.advanced]
    rw [hpath.archBefore]
    split
    · exact .inr (congrArg some (h.evaluate_eq hinv hv.station hi' hv.slotJ hv.slotK hopen))
    · rw [← hpath.archBefore]
      exact hkept.result
  · obtain ⟨f, hf, rfl⟩ := hv.entry_before hf'
    have hage' : s.age q < s.age st.rob := by rwa [hpath.age, hpath.age] at hage
    rw [hpath.archBefore]
    by_cases hq : q = st.rob
    · exact absurd hage' (hq ▸ lt_irrefl _)
    · rw [if_neg hq] at hstore ⊢
      exact hopen hop q f hf hage' hstore

theorem TickSim.visit {s : State} (h : TickSim s) (hinv : TickInv s) (id : Opcode × Nat) : TickSim (s.visit id) := by
  obtain ⟨c, k⟩ := id
  rcases hinv.visit_cases c k with hv | ⟨st, vj, vk, hv⟩
  · rw [hv]
    exact h
  by_cases hheld : st.started = false ∧ s.heldBack st vj = true
  · rw [State.visit_of_heldBack hv.station hv.slotJ hheld.1 hheld.2]
    exact h
  have hpass : st.started = false → s.heldBack st vj = false := by simpa using hheld
  have hpath := hv.samePath
  obtain ⟨-, -, -, -, -, -, -, hcdb, -⟩ := s.visit_frame (c, k)
  refine ⟨h.sim.of_samePath hpath (fun p e' he' => ?_) fun d l st' hst' => ?_, h.bus.kept hinv hv.pathKept hcdb⟩
  · obtain ⟨e, he, rfl⟩ := hv.entry_before he'
    have hdelivered := h.sim.deliveredSim hinv.queue he
    split
    · exact hdelivered.congr hpath.cfg (hpath.archBefore p) rfl rfl rfl rfl
    · exact hdelivered.congr hpath.cfg (hpath.archBefore p) rfl rfl rfl rfl
  · rw [hv.station_eq] at hst'
    split at hst'
    · cases hst'
      exact h.sim.station_advanced hinv hv hpass
    · exact h.sim.station_kept hinv hv.pathKept hst'

theorem TickSim.execute {s : State} (h : TickSim s) (hinv : TickInv s) : TickSim s.execute :=
  (State.execute_keeps (P := fun t => TickSim t ∧ TickInv t) (fun _ id ht => ⟨ht.1.visit ht.2 id, ht.2.visit id⟩) s
    ⟨h, hinv⟩).1

/-! ## Delivery (R193) -/

/-- A slot that takes the value it waits for stands for what it stood for (R135). -/
theorem State.standsFor_snoop {s : State} {p : Nat} {v : Word} (hv : s.standsFor (.waits p) = some v) (o : Operand) :
    s.standsFor (o.snoop p v) = s.standsFor o := by
  cases o with
  | value w => rfl
  | waits q =>
    by_cases hq : q = p
    · subst hq
      simp only [Operand.snoop, if_true]
      exact hv.symm
    · simp [Operand.snoop, hq]

theorem StationSim.snoop {s : State} {st : Station} {i : Instr} (h : StationSim s st i) {p : Nat} {v : Word}
    (hv : s.standsFor (.waits p) = some v) : StationSim s (st.snoop p v) i :=
  { h with
    slotJ := (State.standsFor_snoop hv st.j).trans h.slotJ
    slotK := (State.standsFor_snoop hv st.k).trans h.slotK }

theorem State.writeDeliver_samePath {s : State} {m : CdbMsg} (hm : s.cdb = some m) : SamePath s s.writeDeliver := by
  obtain ⟨hcfg, hx, hmem, hpc, hhead, htail, -, -, hretired, -⟩ := s.writeDeliver_frame
  refine ⟨hcfg, hx, hmem, hpc, hhead, htail, hretired, fun p => ?_, fun p => ?_⟩
  · rw [State.idxAt, s.entry_writeDeliver hm, ← State.entry_modifyEntry]
    exact s.idxAt_modifyEntry m.p p fun _ => rfl
  · rw [State.opAt, s.entry_writeDeliver hm, ← State.entry_modifyEntry]
    exact s.opAt_modifyEntry m.p p fun _ => rfl

/-- A `STORE` whose address is changed by a delivery had none before (R193). -/
theorem TickInv.writeDeliver_pathKept {s : State} (h : TickInv s) {m : CdbMsg} (hm : s.cdb = some m) :
    PathKept s s.writeDeliver := by
  refine (State.writeDeliver_samePath hm).pathKept fun q f f' hf hf' hop => ?_
  rw [s.entry_writeDeliver hm] at hf'
  split at hf'
  · next hq =>
    obtain ⟨e, he, hv, hentry⟩ := h.entry_of_message hm
    cases he.symm.trans (hq ▸ hf)
    obtain ⟨a, hdest, ha⟩ := hentry.dest_of_store hop
    rw [hv, Option.isSome_none, Option.isSome_eq_false_iff, Option.isNone_iff_eq_none] at ha
    exact .inr (ha ▸ hdest)
  · cases hf.symm.trans hf'
    exact .inl rfl

theorem SimInv.writeDeliver {s : State} (h : TickSim s) (hinv : TickInv s) : SimInv s.writeDeliver := by
  rcases hm : s.cdb with - | m
  · rcases s.writeDeliver_cases with ⟨-, hd⟩ | ⟨m, hm', -⟩
    · rw [hd]
      exact h.sim
    · cases hm.symm.trans hm'
  have hpath := State.writeDeliver_samePath hm
  have hkept := hinv.writeDeliver_pathKept hm
  obtain ⟨e, he, hvalue, -⟩ := hinv.entry_of_message hm
  obtain ⟨j, hj⟩ := hinv.queue.owner he
  obtain ⟨hv, ha⟩ := h.bus m e j hm he hj.instrAt
  have hentry := s.entry_writeDeliver hm
  refine h.sim.of_samePath hpath (fun p e' he' => ?_) fun c k st' hst' => ?_
  · rw [hentry] at he'
    split at he'
    · next hp =>
      subst hp
      rw [he, Option.map_some, Option.some_inj] at he'
      subst he'
      intro i hi
      rw [hpath.cfg] at hi
      cases hj.instrAt.symm.trans hi
      rw [hpath.archBefore]
      refine .inr ⟨congrArg some hv, fun hop => ?_⟩
      have hop' : e.op = .store := hop
      simp [RobEntry.deliver, hop', ha]
    · exact (h.sim.deliveredSim hinv.queue he').congr hpath.cfg (hpath.archBefore p) rfl rfl rfl rfl
  · rw [s.station_writeDeliver hm] at hst'
    obtain ⟨st, hst, rfl⟩ := Option.map_eq_some_iff.mp hst'
    refine fun i hi => (h.sim.station_kept hinv hkept hst i hi).snoop ?_
    rw [hkept.standsFor fun q hq => by cases hq; exact ⟨e, he, hvalue⟩]
    simp [State.standsFor, he, hj.instrAt, hv]

theorem SimInv.afterIssue {s : State} (h : TickSim s) (hinv : TickInv s) : SimInv s.afterIssue := by
  have hdelivered := SimInv.writeDeliver h hinv
  have htick := hinv.inv_writeDeliver.tick
  rw [State.afterIssue]
  rcases s.writeDeliver.runControl_cases with ⟨-, hr⟩ | ⟨-, -, hr⟩ | ⟨-, -, hr⟩ <;> rw [hr]
  · exact hdelivered.of_rob_eq htick (.of_rob_eq rfl rfl rfl rfl rfl rfl rfl rfl) rfl fun _ _ _ => id
  · exact hdelivered.of_rob_eq htick (.of_rob_eq rfl rfl rfl rfl rfl rfl rfl rfl) rfl fun _ _ _ => id
  · exact hdelivered

end Sys2Proof.Machine
end

section
/-! Issue keeps the simulation: the new entry is the next instruction of the path, and what it captures are the registers
at the end of the path (43_rs_pool.md R133, R134; 45_pipeline_driver.md R183, R184). -/

namespace Sys2Proof.Machine

/-! ## Operand capture (R133) -/

/-- A captured slot stands for the register at the end of the path. -/
theorem SimInv.standsFor_capture {s : State} (h : SimInv s) (hq : QueueInv s) (r : Reg) :
    s.standsFor (s.capture r) = some ((s.archBefore s.tail).reg r) := by
  show _ = some ((Arch.follow s.cfg s.count s.frontier).reg r)
  by_cases hr : r = 0
  · simp [hr, Arch.reg, State.standsFor]
  cases hs : s.stat.get r with
  | none =>
    have hnone : ∀ p, ¬ s.WritesReg r p := fun p hp => by
      obtain ⟨q, hw, hmax⟩ := hq.exists_youngest hp
      cases hs.symm.trans ((hq.youngest r q).mpr ⟨hr, hw, hmax⟩)
    rw [h.reg_of_unwritten hq (Nat.zero_le _) fun _ p hp => absurd hp (hnone p), s.capture_of_unmapped hs hr]
    simp [State.standsFor, Arch.reg, hr, State.frontier]
  | some p =>
    obtain ⟨-, ⟨e, he, hd⟩, hmax⟩ := (hq.youngest r p).mp hs
    obtain ⟨i, hi⟩ := hq.owner he
    rw [h.reg_of_youngest hq hr he hd hmax hi.instrAt]
    rcases h.deliveredSim hq he i hi.instrAt with hv | ⟨hv, -⟩
    · have hwaits : s.capture r = .waits p := (s.capture_eq_waits r p).mpr ⟨hr, hs, by simp [he, hv]⟩
      simp [hwaits, State.standsFor, he, hi.instrAt]
    · simp [State.capture, hr, hs, he, hv, State.standsFor]

/-- The slots of a request stand for the sources of the instruction (R134). -/
theorem SimInv.standsFor_request {s : State} (h : SimInv s) (hq : QueueInv s) (i : Instr) :
    s.standsFor (requestOf s i).j = some ((s.archBefore s.tail).sources i).1 ∧
      s.standsFor (requestOf s i).k = some ((s.archBefore s.tail).sources i).2 := by
  have hcapture := h.standsFor_capture hq
  cases i with
  | load rA rB imm => exact ⟨hcapture rB, rfl⟩
  | store rA rB imm => exact ⟨hcapture rA, hcapture rB⟩
  | beq rA rB target => exact ⟨hcapture rA, hcapture rB⟩
  | call target => exact ⟨rfl, rfl⟩
  | ret => exact ⟨hcapture 1, rfl⟩
  | add rA rB rC => exact ⟨hcapture rB, hcapture rC⟩
  | addi rA rB imm => exact ⟨hcapture rB, rfl⟩
  | nand rA rB rC => exact ⟨hcapture rB, hcapture rC⟩
  | mul rA rB rC => exact ⟨hcapture rB, hcapture rC⟩

/-- What Issue captured waits on an entry without its value, or on none (R133). -/
theorem QueueInv.entry_of_captured {s : State} (h : QueueInv s) {o : Operand} (ho : Captured s o) (q : Nat)
    (hq : o = .waits q) : ∃ e, s.entry q = some e ∧ e.value = none := by
  cases ho with
  | register r =>
    obtain ⟨e, he, hv, -⟩ := h.entry_of_capture hq
    exact ⟨e, he, hv⟩
  | value v => cases hq

/-! ## Allocation (R183, R184) -/

/-- Issue goes on where the path goes on (R184). -/
theorem requestOf_nextPC (s : State) (i : Instr) : (requestOf s i).nextPC = Instr.fetchedNext i s.pc := by
  cases i <;> rfl

/-- A `LOAD` or `STORE` keeps the immediate its address is computed with (R110, R134). -/
theorem requestOf_imm (s : State) (a : Arch) (i : Instr) :
    (i.opcode = .load → a.address i = some ((a.sources i).1 + (requestOf s i).imm)) ∧
      (i.opcode = .store → a.address i = some ((a.sources i).2 + (requestOf s i).imm)) := by
  cases i <;> simp [Instr.opcode, Arch.address, Arch.sources, requestOf]

section allocate
variable {s : State} {i : Instr} {k : Nat}

/-- An allocation puts nothing in front of the oldest instruction. -/
theorem QueueInv.frontier_allocate (h : QueueInv s) (hfull : s.robFull = false) (q : IssueRequest) :
    (s.allocate q k).frontier = s.frontier := by
  have hcount := s.count_allocate q k h.headLt h.tailLt hfull
  have htail : (s.allocate q k).tail < (s.allocate q k).n := Nat.mod_lt _ (Nat.zero_lt_of_lt h.headLt)
  have hne : (s.allocate q k).head ≠ (s.allocate q k).tail := fun heq => by
    rw [((s.allocate q k).count_eq_zero h.headLt htail).mpr heq] at hcount
    omega
  refine Arch.ext rfl rfl ?_
  rw [State.frontier_pc, State.frontier_pc, if_neg hne, State.idxAt, h.entry_allocate, State.allocate_head]
  by_cases hempty : s.head = s.tail
  · simp [hempty, State.newEntry]
  · have hpos : 0 < s.count := Nat.pos_of_ne_zero fun h0 => hempty ((s.count_eq_zero h.headLt h.tailLt).mp h0)
    obtain ⟨e, he⟩ := (h.occupied s.head).mpr ⟨h.headLt, by rw [s.age_head h.headLt]; exact hpos⟩
    simp [hempty, State.idxAt, he]

theorem QueueInv.archBefore_allocate (h : QueueInv s) (hfull : s.robFull = false) (q : IssueRequest) (p : Nat) :
    (s.allocate q k).archBefore p = s.archBefore p := by
  rw [State.archBefore, h.frontier_allocate hfull, State.age_allocate]
  rfl

theorem QueueInv.pathKept_allocate (h : QueueInv s) (hfull : s.robFull = false) (q : IssueRequest) :
    PathKept s (s.allocate q k) where
  cfg := rfl
  entry p e he _ := ⟨e, h.entry_allocate_kept q k he, rfl, h.archBefore_allocate hfull q p⟩
  store p e he _ p' f' hf' hop hage := by
    rw [State.age_allocate, State.age_allocate] at hage
    rw [h.entry_allocate] at hf'
    split at hf'
    · next hp =>
      rw [hp] at hage
      exact absurd hage (Nat.not_lt.mpr ((h.occupied p).mp ⟨e, he⟩).2.le)
    · exact ⟨f', hf', hop, hage, .inl rfl⟩

/-- The new station holds its instruction's sources and what its address is computed with. -/
theorem SimInv.newStation (h : SimInv s) (hinv : TickInv s) (hfull : s.robFull = false)
    (hi : s.cfg.instrAt s.pc.toNat = some i) :
    ∀ j ∈ s.cfg.instrAt s.pc.toNat,
      StationSim (s.allocate (requestOf s i) k) (s.newStation (requestOf s i)) j := by
  intro j hj
  cases hi.symm.trans hj
  have hkept := hinv.queue.pathKept_allocate (k := k) hfull (requestOf s i)
  have harch := hinv.queue.archBefore_allocate (k := k) hfull (requestOf s i) s.tail
  obtain ⟨hslotJ, hslotK⟩ := h.standsFor_request hinv.queue i
  obtain ⟨hcapJ, hcapK⟩ := requestOf_captured s i
  obtain ⟨hload, hstore⟩ := requestOf_imm s (s.archBefore s.tail) i
  have hrob : (s.newStation (requestOf s i)).rob = s.tail := rfl
  have hop : (s.newStation (requestOf s i)).op = i.opcode := requestOf_op s i
  refine { slotJ := ?_, slotK := ?_, immLoad := ?_, immStore := ?_, result := .inl rfl,
           unblocked := fun _ hs => by cases hs } <;> rw [hrob, harch]
  · exact (hkept.standsFor (hinv.queue.entry_of_captured hcapJ)).trans hslotJ
  · exact (hkept.standsFor (hinv.queue.entry_of_captured hcapK)).trans hslotK
  · exact fun h => hload (hop ▸ h)
  · exact fun h => hstore (hop ▸ h)

theorem TickSim.allocate (h : TickSim s) (hinv : TickInv s) (hret : s.retInFlight = false)
    (hfull : s.robFull = false) (hk : s.tryAcquire i.opcode = some k) (hi : s.cfg.instrAt s.pc.toNat = some i) :
    TickSim (s.allocate (requestOf s i) k) := by
  obtain ⟨⟨hlen, -⟩, -⟩ := (s.tryAcquire_eq_some _ k).mp hk
  have hq := hinv.queue
  have hkept := hq.pathKept_allocate (k := k) hfull (requestOf s i)
  have harch := hq.archBefore_allocate (k := k) hfull (requestOf s i)
  have hfrontier := hq.frontier_allocate (k := k) hfull (requestOf s i)
  have hcount := s.count_allocate (requestOf s i) k hq.headLt hq.tailLt hfull
  refine ⟨{ frontier := ?_, onPath := fun p _ e he => ?_, fetch := ?_, retYoungest := fun p _ e he hop => ?_,
            delivered := fun p _ e he => ?_, stations := fun st hst => ?_ }, h.bus.kept hinv hkept rfl⟩
  · rw [hfrontier]
    exact h.sim.frontier
  · rw [harch]
    rw [Option.mem_def, hq.entry_allocate] at he
    split at he
    · next hp =>
      cases he
      rw [hp]
      exact h.sim.fetch
    · exact h.sim.onPath p (hq.slot_lt he) e he
  · have hnext : Arch.follow s.cfg (s.count + 1) s.frontier = (s.archBefore s.tail).predicted i :=
      Arch.follow_succ _ _ _ (h.sim.fetch ▸ hi)
    rw [hfrontier, hcount, State.allocate_cfg, hnext, Arch.predicted_pc, State.allocate_pc, requestOf_nextPC,
      h.sim.fetch]
    rfl
  · rw [hcount, State.age_allocate]
    rw [Option.mem_def, hq.entry_allocate] at he
    split at he
    · next hp => rw [hp, s.age_tail]
    · have hin := (hq.occupied p).mp ⟨e, he⟩
      rw [(s.retInFlight_iff hq.headLt).mpr ⟨p, e, hin, he, hop⟩] at hret
      cases hret
  · show DeliveredSim _ p e
    rw [Option.mem_def, hq.entry_allocate] at he
    split at he
    · cases he
      exact .of_value_none rfl
    · exact (h.sim.deliveredSim hq he).congr rfl (harch p) rfl rfl rfl rfl
  · obtain ⟨c, l, hst'⟩ := ((s.allocate (requestOf s i) k).mem_busyStations st).mp hst
    rw [s.station_allocate _ _ _ _ (by rwa [requestOf_op])] at hst'
    split at hst'
    · cases hst'
      exact h.sim.newStation hinv hfull hi
    · exact h.sim.station_kept hinv hkept hst'

end allocate

theorem TickSim.issue {s : State} (h : TickSim s) (hinv : TickInv s) {i : Instr}
    (hi : s.cfg.instrAt s.pc.toNat = some i) : TickSim (s.issue (requestOf s i)) := by
  rcases s.issue_cases (requestOf s i) with ⟨hs, -⟩ | ⟨k, hret, hfull, hk, hs⟩ <;> rw [hs]
  · exact h
  · rw [requestOf_op] at hk
    exact h.allocate hinv hret hfull hk hi

end Sys2Proof.Machine
end

section
/-! Commit keeps the simulation: retiring the head is one instruction of the sequential machine, whatever becomes of the
prediction (45_pipeline_driver.md R195, R212, 42_control.md R121 to R123). -/

namespace Sys2Proof.Machine

/-! ## The side effect is the architectural effect -/

theorem State.retireRegister_of_dest (s : State) {e : RobEntry} {r : Reg} {v : Word} (hd : e.dest = .register r)
    (hv : e.value = some v) : s.retireRegister e = s.writeReg r v := by
  simp [State.retireRegister, hd, hv]

theorem State.writeReg_x (s : State) (r : Reg) (v : Word) :
    (s.writeReg r v).x = if r = 0 then s.x else s.x.set r v := by
  unfold State.writeReg
  split <;> rfl

/-- Commit of an entry with its instruction's value writes registers and memory as the instruction does (R195). -/
theorem State.sideEffect_effect (s : State) {a : Arch} {i : Instr} {e : RobEntry} (hx : s.x = a.x) (hmem : s.mem = a.mem)
    (hop : i.opcode = e.op) (hd : destOk i e = true) (hv : e.value = some (a.value i))
    (hstore : e.op = .store → e.dest = .memory (a.address i)) :
    (s.sideEffect e).x = (a.effect i).x ∧ (s.sideEffect e).mem = (a.effect i).mem := by
  have hput : ∀ {r : Reg}, e.dest = .register r →
      (s.retireRegister e).x = (a.put r (a.value i)).x ∧ (s.retireRegister e).mem = a.mem := by
    intro r hdest
    rw [s.retireRegister_of_dest hdest hv, State.writeReg_x, State.writeReg_mem, hx, hmem]
    exact ⟨rfl, rfl⟩
  rcases s.sideEffect_cases e with ⟨hw, hs⟩ | ⟨ho, hs⟩ | ⟨ho, hs⟩ | ⟨ho, hs⟩ <;> rw [hs] <;> rw [← hop] at *
  · cases i with
    | store | beq | ret => simp [writesRegister, Instr.opcode] at hw
    | call | load | add | addi | nand | mul => exact hput (by simpa [destOk] using hd)
  · cases i with
    | store rA rB imm =>
      rw [s.retireMemory_of_address (hstore rfl) hv, State.writeMem_mem, hmem]
      exact ⟨hx, rfl⟩
    | _ => cases ho
  · obtain ⟨hx', hmem'⟩ := retireRet_frame s e
    cases i with
    | ret => exact ⟨hx'.trans hx, hmem'.trans hmem⟩
    | _ => cases ho
  · obtain ⟨hx', hmem'⟩ := retireBeq_frame s e
    cases i with
    | beq rA rB target => exact ⟨hx'.trans hx, hmem'.trans hmem⟩
    | _ => cases ho

/-- Outside of a misprediction and of a `RET`, Commit leaves `pc` alone (R195, R196). -/
theorem State.sideEffect_pc (s : State) {e : RobEntry} (hm : ¬ e.mispredicted) (hr : e.op ≠ .ret) :
    (s.sideEffect e).pc = s.pc := by
  rcases s.sideEffect_cases e with ⟨-, hs⟩ | ⟨-, hs⟩ | ⟨ho, -⟩ | ⟨ho, hs⟩ <;> try rw [hs]
  · exact s.retireRegister_pc e
  · exact s.retireMemory_pc e
  · exact absurd ho hr
  · simp [retireBeq, show e.outcome ≠ some true from fun hout => hm ⟨ho, hout⟩]

/-- A misprediction redirects `pc` to the target of the branch (R212). -/
theorem State.sideEffect_pc_mispredicted (s : State) {e : RobEntry} (hm : e.mispredicted) {rA rB : Reg} {target : Word}
    (hi : s.cfg.instrAt e.idx.toNat = some (.beq rA rB target)) : (s.sideEffect e).pc = target := by
  rw [s.sideEffect_mispredicted hm, State.mispredict]
  simp [State.branchTarget, hi]

theorem outcomeBit_equal (P : Prop) [Decidable P] : outcomeBit (if P then 1 else 0) = decide P := by
  by_cases h : P
  · rw [if_pos h, decide_eq_true h]
    rfl
  · rw [if_neg h, decide_eq_false h]
    rfl

/-! ## The retirement of the head -/

/-- What the simulation says of a head that is ready: it is the instruction at the frontier, with its value. -/
structure HeadSim (s : State) (e : RobEntry) (i : Instr) : Prop where
  owns : Owns s e i
  idx : e.idx = s.frontier.pc
  inProgram : e.idx < s.cfg.progLen
  value : e.value = some (s.frontier.value i)
  address : e.op = .store → e.dest = .memory (s.frontier.address i)
  /-- A `BEQ` is mispredicted where its registers are equal, so that it is taken (R31, R121). -/
  mispredicted : ∀ rA rB target, i = .beq rA rB target →
    (e.mispredicted ↔ s.frontier.reg rA = s.frontier.reg rB)

theorem State.archBefore_head {s : State} (hh : s.head < s.n) : s.archBefore s.head = s.frontier := by
  rw [State.archBefore, s.age_head hh, Arch.follow_zero]

theorem SimInv.headSim {s : State} (h : SimInv s) (hinv : TickInv s) {e : RobEntry} (hready : s.readyHead = some e) :
    ∃ i, HeadSim s e i := by
  obtain ⟨-, he, -, hval⟩ := (s.readyHead_eq_some e).mp hready
  have hq := hinv.queue
  have harch := State.archBefore_head hq.headLt
  have hentry := hq.entries _ e he
  obtain ⟨i, hi⟩ := hq.owner he
  have hdelivered := h.deliveredSim hq he i hi.instrAt
  rw [harch, or_iff_right fun hv => by simp [hv] at hval] at hdelivered
  obtain ⟨hvalue, haddr⟩ := hdelivered
  refine ⟨i, hi, harch ▸ h.onPath _ hq.headLt e he, hentry.idxInProgram, hvalue, haddr, fun rA rB target hbeq => ?_⟩
  subst hbeq
  have hop : e.op = .beq := hi.opcode.symm
  rw [RobEntry.mispredicted, and_iff_right hop, hentry.outcomeOfValue, if_pos hop, hvalue, Option.map_some,
    Option.some_inj, Arch.value, outcomeBit_equal, decide_eq_true_eq]

/-- Retiring the head leaves registers and memory as its instruction does. -/
theorem HeadSim.retire_effect {s : State} {e : RobEntry} {i : Instr} (h : HeadSim s e i) :
    (s.retire e).x = (s.frontier.effect i).x ∧ (s.retire e).mem = (s.frontier.effect i).mem := by
  obtain ⟨hx, hmem, -⟩ := s.retire_of_sideEffect e
  rw [hx, hmem]
  exact s.headCommitted.sideEffect_effect (a := s.frontier) rfl rfl h.owns.opcode h.owns.dest h.value h.address

/-- A taken `BEQ` and a `RET` redirect `pc` to where their instruction goes (R121, R123). -/
theorem HeadSim.retire_pc {s : State} {e : RobEntry} {i : Instr} (h : HeadSim s e i)
    (hredirect : e.mispredicted ∨ e.op = .ret) : (s.retire e).pc = (s.frontier.effect i).pc := by
  obtain ⟨-, -, hpc, -⟩ := s.retire_of_sideEffect e
  have hop := h.owns.opcode
  rw [hpc]
  rcases hredirect with hm | hret
  · rw [hm.1] at hop
    cases i with
    | beq rA rB target =>
      rw [s.headCommitted.sideEffect_pc_mispredicted hm h.owns.instrAt]
      simp [Arch.effect, (h.mispredicted rA rB target rfl).mp hm]
    | _ => cases hop
  · rw [hret] at hop
    cases i with
    | ret => simp [State.sideEffect, hret, retireRet, h.value, Arch.value, Arch.effect]
    | _ => cases hop

/-- Where nothing redirects `pc`, the prediction was right. -/
theorem HeadSim.predicted_eq_effect {s : State} {e : RobEntry} {i : Instr} (h : HeadSim s e i)
    (hm : ¬ e.mispredicted) (hret : e.op ≠ .ret) : s.frontier.predicted i = s.frontier.effect i := by
  have hop := h.owns.opcode
  refine Arch.predicted_eq_effect _ i (hop ▸ hret) fun hbeq => ?_
  cases i with
  | beq rA rB target => simp [Arch.value, (h.mispredicted rA rB target rfl).not.mp hm]
  | _ => cases hbeq

/-- One instruction more of the sequential machine (R290). -/
theorem HeadSim.run_retired {s : State} {e : RobEntry} {i : Instr} (h : HeadSim s e i) {a : Arch}
    (hrun : Arch.run s.cfg s.retired a = some s.frontier) :
    Arch.run s.cfg (s.retired + 1) a = some (s.frontier.effect i) := by
  have hpc := h.inProgram
  have hi := h.owns.instrAt
  rw [h.idx] at hpc hi
  simp [Arch.run, hrun, Arch.next, hpc, hi]

/-! ## Where the machine is left empty -/

/-- Nothing is in flight where the indices meet. -/
theorem TickInv.emptied {s : State} (h : TickInv s) (hindices : s.head = s.tail) : Emptied s := by
  have hcount := (s.count_eq_zero h.queue.headLt h.queue.tailLt).mpr hindices
  have hentry : ∀ p, s.entry p = none := fun p => by
    cases he : s.entry p with
    | none => rfl
    | some e => exact absurd ((h.queue.occupied p).mp ⟨e, he⟩).2 (by omega)
  refine { indices := hindices, entry := hentry, station := fun c k => ?_, stat := fun r => ?_ }
  · cases hst : s.station c k with
    | none => rfl
    | some st =>
      obtain ⟨e, he, -⟩ := h.entry_of_station hst
      simp [hentry] at he
  · cases hs : s.stat.get r with
    | none => rfl
    | some p =>
      obtain ⟨-, ⟨e, he, -⟩, -⟩ := (h.queue.youngest r p).mp hs
      simp [hentry] at he

theorem Emptied.frontier {s : State} (h : Emptied s) : s.frontier = s.arch :=
  Arch.ext rfl rfl (by rw [State.frontier_pc, if_pos h.indices]; rfl)

/-- An empty machine simulates the sequential one where its committed state does. -/
theorem SimInv.of_emptied {s : State} (h : Emptied s) (hq : QueueInv s)
    (hrun : Arch.run s.cfg s.retired (State.initial s.cfg).arch = some s.arch) : SimInv s where
  frontier := h.frontier ▸ hrun
  onPath p _ e he := by simp [h.entry] at he
  fetch := by
    rw [(s.count_eq_zero hq.headLt hq.tailLt).mpr h.indices, Arch.follow_zero, h.frontier]
    rfl
  retYoungest p _ e he := by simp [h.entry] at he
  delivered p _ e he := by simp [h.entry] at he
  stations st hst := by
    obtain ⟨c, k, hst'⟩ := (s.mem_busyStations st).mp hst
    simp [h.station] at hst'

/-! ## Where the path goes on -/

section popped
variable {s t : State} {e : RobEntry}

/-- A path that goes on past the head is that of the entries left. -/
theorem HeadPopped.archBefore (h : HeadPopped s t e) (hq : QueueInv s)
    (hfrontier : t.frontier = Arch.follow s.cfg 1 s.frontier) {p : Nat} (hp : p < s.n) (hne : p ≠ s.head) :
    t.archBefore p = s.archBefore p := by
  rw [State.archBefore, State.archBefore, h.cfg, hfrontier, ← Arch.follow_add, h.age_succ hq.headLt hp hne]

theorem HeadPopped.pathKept (h : HeadPopped s t e) (hq : QueueInv s)
    (hfrontier : t.frontier = Arch.follow s.cfg 1 s.frontier) : PathKept s t where
  cfg := h.cfg
  entry p e₀ he₀ hv := by
    have hne := h.ne_head he₀ hv
    obtain ⟨b, hb⟩ := h.entry_some hne he₀
    exact ⟨_, hb, rfl, h.archBefore hq hfrontier (hq.slot_lt he₀) hne⟩
  store p e₀ he₀ hv q f' hf' hop hage := by
    obtain ⟨hqh, f, hf, rfl⟩ := h.entry_before hf'
    exact ⟨f, hf, hop,
      (h.age_lt_iff hq.headLt (hq.slot_lt hf) (hq.slot_lt he₀) hqh (h.ne_head he₀ hv)).mp hage, .inl rfl⟩

/-- Popping a head whose prediction was right keeps the simulation of the rest. -/
theorem SimInv.of_popped (hsim : SimInv s) (hinv : TickInv s) (h : HeadPopped s t e)
    (hfrontier : t.frontier = Arch.follow s.cfg 1 s.frontier)
    (hrun : Arch.run s.cfg t.retired (State.initial s.cfg).arch = some t.frontier) (hpc : t.pc = s.pc) : SimInv t where
  frontier := h.cfg ▸ hrun
  onPath p _ e' he' := by
    obtain ⟨hne, e₀, he₀, rfl⟩ := h.entry_before he'
    have hp := hinv.queue.slot_lt he₀
    rw [h.archBefore hinv.queue hfrontier hp hne]
    exact hsim.onPath p hp e₀ he₀
  fetch := by
    rw [hpc, h.cfg, hfrontier, ← Arch.follow_add, h.count_succ hinv.queue]
    exact hsim.fetch
  retYoungest p _ e' he' hop := by
    obtain ⟨hne, e₀, he₀, rfl⟩ := h.entry_before he'
    have hp := hinv.queue.slot_lt he₀
    have hage := h.age_succ hinv.queue.headLt hp hne
    have hcount := h.count_succ hinv.queue
    have := hsim.retYoungest p hp e₀ he₀ hop
    omega
  delivered p _ e' he' := by
    obtain ⟨hne, e₀, he₀, rfl⟩ := h.entry_before he'
    exact (hsim.deliveredSim hinv.queue he₀).congr h.cfg
      (h.archBefore hinv.queue hfrontier (hinv.queue.slot_lt he₀) hne) rfl rfl rfl rfl
  stations st hst := by
    obtain ⟨c, k, hst'⟩ := (t.mem_busyStations st).mp hst
    rw [State.station_congr h.rs] at hst'
    exact hsim.station_kept hinv (h.pathKept hinv.queue hfrontier) hst'

/-- What stands behind a popped head is the next instruction of the path, or nothing. -/
theorem SimInv.frontier_pc_of_popped (hsim : SimInv s) (hq : QueueInv s) (h : HeadPopped s t e) (hpc : t.pc = s.pc) :
    t.frontier.pc = (Arch.follow s.cfg 1 s.frontier).pc := by
  have hcount := h.count_succ hq
  have hqt := h.queueInv hq
  rw [State.frontier_pc]
  by_cases hempty : t.head = t.tail
  · have h0 : s.count = 1 := by
      rw [← hcount, (t.count_eq_zero hqt.headLt hqt.tailLt).mpr hempty]
    rw [if_pos hempty, hpc, hsim.fetch, h0]
  · have hpos := Nat.pos_of_ne_zero fun h0 => hempty ((t.count_eq_zero hqt.headLt hqt.tailLt).mp h0)
    obtain ⟨e', he'⟩ := (hqt.occupied t.head).mpr ⟨hqt.headLt, by rw [t.age_head hqt.headLt]; exact hpos⟩
    obtain ⟨hne, e₀, he₀, rfl⟩ := h.entry_before he'
    have hage := h.age_succ hq.headLt (hq.slot_lt he₀) hne
    rw [t.age_head hqt.headLt] at hage
    rw [if_neg hempty, State.idxAt, he', Option.map_some, Option.getD_some, hsim.onPath _ (hq.slot_lt he₀) e₀ he₀,
      State.archBefore, ← hage]

end popped

/-! ## Commit -/

theorem SimInv.commit {s : State} (h : SimInv s) (hinv : TickInv s) (hempty : s.cdb = none) : SimInv s.commit := by
  obtain ⟨hinv', -⟩ := hinv.commit hempty
  rcases s.commit_cases with ⟨-, hc⟩ | ⟨e, hready, hc⟩ <;> rw [hc] at hinv' ⊢
  · exact h
  obtain ⟨hne, he, -, hval⟩ := (s.readyHead_eq_some e).mp hready
  obtain ⟨i, hhead⟩ := h.headSim hinv hready
  obtain ⟨hcfg, -, -, -, -, -, hretired, -⟩ := s.retire_frame e
  obtain ⟨hx, hmem⟩ := hhead.retire_effect
  have hrun := hhead.run_retired h.frontier
  have hredirected : (s.retire e).head = (s.retire e).tail → (e.mispredicted ∨ e.op = .ret) →
      SimInv (s.retire e) := fun hindices hredirect => by
    refine .of_emptied (hinv'.emptied hindices) hinv'.queue ?_
    rw [hcfg, hretired, hrun]
    exact congrArg some (Arch.ext hx.symm hmem.symm (hhead.retire_pc hredirect).symm)
  by_cases hm : e.mispredicted
  · exact hredirected (hinv.emptied_of_mispredicted he hval hm).indices (.inl hm)
  have hpopped := State.retire_popped hready hm
  by_cases hret : e.op = .ret
  · have hlast := h.retYoungest s.head hinv.queue.headLt e he hret
    have hcount := hpopped.count_succ hinv.queue
    rw [s.age_head hinv.queue.headLt] at hlast
    exact hredirected
      (((s.retire e).count_eq_zero hinv'.queue.headLt hinv'.queue.tailLt).mp (by omega)) (.inr hret)
  obtain ⟨-, -, hpc, -⟩ := s.retire_of_sideEffect e
  rw [s.headCommitted.sideEffect_pc hm hret] at hpc
  have hnext : Arch.follow s.cfg 1 s.frontier = s.frontier.effect i := by
    have hfollow := h.follow_after hinv.queue he hhead.owns.instrAt
    rw [s.age_head hinv.queue.headLt, State.archBefore_head hinv.queue.headLt, hhead.predicted_eq_effect hm hret]
      at hfollow
    exact hfollow
  have hfrontier : (s.retire e).frontier = Arch.follow s.cfg 1 s.frontier :=
    Arch.ext (hx.trans (congrArg Arch.x hnext.symm)) (hmem.trans (congrArg Arch.mem hnext.symm))
      (h.frontier_pc_of_popped hinv.queue hpopped hpc)
  exact h.of_popped hinv hpopped hfrontier (by rw [hretired, hrun, hfrontier, hnext]) hpc

end Sys2Proof.Machine
end

section
/-! The simulation from tick boundary to tick boundary and at a start: the engine computes what the sequential machine
computes (70_reset_and_hazards.md R290). -/

namespace Sys2Proof.Machine

/-- The tick up to Issue keeps the simulation, stage by stage in the order of R170. -/
theorem SimInv.beforeIssue {s : State} (h : SimInv s) (hinv : Inv s) : TickSim s.beforeIssue := by
  have hnext : Inv { s with cycle := s.cycle + 1 } := hinv.congr_control rfl
  have hsim : SimInv { s with cycle := s.cycle + 1 } :=
    h.of_rob_eq hinv.tick (.of_rob_eq rfl rfl rfl rfl rfl rfl rfl rfl) rfl fun _ _ _ => id
  obtain ⟨hcommit, hempty⟩ := hnext.tick.commit hnext.latchEmpty
  exact (TickSim.writeArbitrate (hsim.commit hnext.tick hnext.latchEmpty) hcommit hempty).execute
    (hcommit.writeArbitrate hempty)

theorem SimInv.step {s t : State} (h : SimInv s) (hinv : Inv s) (hst : Machine.step s = .next t) : SimInv t := by
  have hbefore := h.beforeIssue hinv
  rcases step_cases hst with ⟨-, ht⟩ | ⟨-, -, ⟨-, ht⟩ | ⟨i, hpc, hi, ht⟩⟩ <;> rw [ht]
  · exact h
  · exact .afterIssue hbefore hinv.beforeIssue
  · exact .afterIssue (hbefore.issue hinv.beforeIssue hi) (hinv.beforeIssue.issue hpc hi)

theorem simInv_started {c : Config} (hc : startCheck c = none) : SimInv (State.started c) := by
  have hinv := (invariantAtStart c hc).tick
  rw [started_of_check hc] at hinv ⊢
  exact .of_emptied (hinv.emptied rfl) hinv.queue rfl

theorem Reached.simInv {c : Config} {t : State} (h : Reached c t) : SimInv t :=
  (reached_keeps (P := fun s => Inv s ∧ SimInv s) (fun hc => ⟨invariantAtStart c hc, simInv_started hc⟩)
    (fun s t hs hst => ⟨everyStepKeepsInvariant s t hs.1 hst, hs.2.step hs.1 hst⟩) h).2

/-- The engine runs, or ran out of its budget, or nothing is left to do (R229, R230). -/
def EndsDone (s : State) : Prop :=
  s.run = false → s.status = .doneOk → s.head = s.tail ∧ s.cfg.progLen ≤ s.pc

theorem endsDone_afterIssue (s : State) (hrun : s.run = true) : EndsDone s.afterIssue := by
  obtain ⟨-, -, -, -, -, -, -, -, -, -, -, -, -, hrun', -⟩ := s.writeDeliver_frame
  rw [State.afterIssue]
  rcases s.writeDeliver.runControl_cases with ⟨hdone, hr⟩ | ⟨-, -, hr⟩ | ⟨-, -, hr⟩ <;> rw [hr]
  · obtain ⟨hpc, -, hindices⟩ := s.writeDeliver.done_iff.mp hdone
    exact fun _ _ => ⟨hindices, hpc⟩
  · intro _ hstatus
    cases hstatus
  · intro hstopped
    rw [hrun', hrun] at hstopped
    cases hstopped

theorem EndsDone.step {s t : State} (h : EndsDone s) (hst : Machine.step s = .next t) : EndsDone t := by
  obtain ⟨-, -, -, -, hrun⟩ := s.beforeIssue_frame
  rcases step_cases hst with ⟨-, ht⟩ | ⟨hrunning, -, ⟨-, ht⟩ | ⟨i, -, -, ht⟩⟩ <;> rw [ht]
  · exact h
  · exact endsDone_afterIssue _ (hrun.trans hrunning)
  · refine endsDone_afterIssue _ (Eq.trans ?_ (hrun.trans hrunning))
    rcases s.beforeIssue.issue_cases (requestOf s.beforeIssue i) with ⟨hs, -⟩ | ⟨k, -, -, -, hs⟩ <;> rw [hs]
    rfl

theorem Reached.endsDone {c : Config} {t : State} (h : Reached c t) : EndsDone t := by
  refine reached_keeps (fun hc => ?_) (fun s t hs hst => hs.step hst) h
  rw [started_of_check hc]
  intro hrun
  cases hrun

/-- Settles O60: every stage keeps the simulation, and where a run has ended the frontier is the whole state. -/
theorem sequentialEquivalence : Obligations.SequentialEquivalence := by
  refine ⟨fun c => simInv_started, fun s t hinv h hst => h.step hinv hst, fun c t ht => ?_⟩
  have hrun := ht.simInv.frontier
  rw [ht.cfg] at hrun
  refine ⟨t.frontier, hrun, rfl, rfl, fun hstopped hstatus => ?_⟩
  obtain ⟨hindices, hpc⟩ := ht.endsDone hstopped hstatus
  have hfrontier : t.frontier.pc = t.pc := by rw [State.frontier_pc, if_pos hindices]
  exact ⟨hfrontier.symm, by rw [hfrontier, ← ht.cfg]; exact hpc⟩

end Sys2Proof.Machine
end

section
/-! Issue of an accepted instruction gives the allocated state of its own request (40_alu.md R101 to R104,
45_pipeline_driver.md R180, R183, R184). -/

namespace Sys2Proof.Machine

/-- The allocation of an accepted request fills its station and its entry, renames its destination and keeps the rest
(R183, R184). -/
theorem Accepts.allocate_issuedInto {s : State} {q : IssueRequest} {k : Nat} (h : Accepts s q.op k) :
    IssuedInto s (s.allocate q k) q.op k q.dest q.j q.k q.imm q.takenPC q.nextPC where
  station := by rw [s.station_allocate q k q.op k h.free.1, if_pos ⟨rfl, rfl⟩]; rfl
  entry := by
    rw [s.entry_allocate q k s.tail h.tailSlot, if_pos rfl, State.newEntry, State.specBit, beq_eq_decide]
  tail := rfl
  nseq := rfl
  pc := rfl
  trace := rfl
  renamed r hd hr := by rw [State.allocate_stat, s.renamed_get, if_pos ⟨hd, hr⟩]
  statKept r hr := by rw [State.allocate_stat, s.renamed_get, if_neg hr]
  stationsKept c l hcl := by rw [s.station_allocate q k c l h.free.1, if_neg hcl]
  entriesKept p hp := by rw [s.entry_allocate q k p h.tailSlot, if_neg hp]
  registers _ := rfl
  memory _ := rfl
  rest := ⟨rfl, rfl, rfl, rfl, rfl, rfl, rfl, rfl, rfl⟩

/-- Whatever the instruction, Issue of it where it is accepted gives the allocated state of its request. -/
theorem Accepts.exec_issuedInto {s : State} {i : Instr} {k : Nat} (h : Accepts s i.opcode k) :
    ∃ t, exec i s = .next t ∧ IssuedInto s t i.opcode k (requestOf s i).dest (requestOf s i).j (requestOf s i).k
      (requestOf s i).imm (requestOf s i).takenPC (requestOf s i).nextPC := by
  have hq : Accepts s (requestOf s i).op k := by rwa [requestOf_op]
  have hissued := hq.allocate_issuedInto
  rw [requestOf_op] at hissued
  exact ⟨_, by rw [exec_eq, s.issue_of_accepts _ hq], hissued⟩

/-- Settles O8: the request of an `ADD` is its two sources, its destination and the next index. -/
theorem addIssues : Obligations.AddIssues := by
  intro s rA rB rC k h
  obtain ⟨t, ht, hissued⟩ := Accepts.exec_issuedInto (i := .add rA rB rC) h
  exact ⟨t, _, _, ht, hissued⟩

/-- Settles O9: the request of an `ADDI` has its immediate in slot k. -/
theorem addiIssues : Obligations.AddiIssues := by
  intro s rA rB imm k h
  obtain ⟨t, ht, hissued⟩ := Accepts.exec_issuedInto (i := .addi rA rB imm) h
  exact ⟨t, _, ht, hissued⟩

/-- Settles O10: the request of a `NAND` is its two sources, its destination and the next index. -/
theorem nandIssues : Obligations.NandIssues := by
  intro s rA rB rC k h
  obtain ⟨t, ht, hissued⟩ := Accepts.exec_issuedInto (i := .nand rA rB rC) h
  exact ⟨t, _, _, ht, hissued⟩

/-- Settles O11: the request of a `MUL` is its two sources, its destination and the next index. -/
theorem mulIssues : Obligations.MulIssues := by
  intro s rA rB rC k h
  obtain ⟨t, ht, hissued⟩ := Accepts.exec_issuedInto (i := .mul rA rB rC) h
  exact ⟨t, _, _, ht, hissued⟩

end Sys2Proof.Machine
end

section
/-! One instruction alone in the engine: the stages that have nothing to do, and the state with that instruction in slot 0
(45_pipeline_driver.md R170, R180, R181). -/

namespace Sys2Proof.Machine

/-! ## Stages with nothing to do -/

theorem State.commit_of_not_ready {s : State} (h : s.readyHead = none) : s.commit = s := by
  simp [State.commit, h]

/-- Without a result-ready station arbitration does nothing (R191). -/
theorem State.writeArbitrate_of_no_result {s : State} (h : ∀ c k st, s.station c k = some st → st.result = none) :
    s.writeArbitrate = s := (oneBroadcastPerCycle s).2 h

theorem State.visit_of_idle {s : State} {id : Opcode × Nat} (h : s.station id.1 id.2 = none) : s.visit id = s := by
  simp [State.visit, h]

theorem State.foldl_visit_of_idle (l : List (Opcode × Nat)) {s : State}
    (h : ∀ id ∈ l, s.station id.1 id.2 = none) : l.foldl State.visit s = s := by
  induction l with
  | nil => rfl
  | cons id rest ih =>
    rw [List.foldl_cons, State.visit_of_idle (h id List.mem_cons_self)]
    exact ih fun id' hid' => h id' (List.mem_cons_of_mem _ hid')

theorem State.execute_of_idle {s : State} (h : ∀ c k, s.station c k = none) : s.execute = s :=
  State.foldl_visit_of_idle _ fun id _ => h id.1 id.2

/-- Where one station is busy, before and after its visit, Execute is that visit (R186). -/
theorem State.execute_of_single {s : State} {c : Opcode} {k : Nat} (hk : k < (s.rs.get c).length)
    (hidle : ∀ d l, ¬ (d = c ∧ l = k) → s.station d l = none ∧ (s.visit (c, k)).station d l = none) :
    s.execute = s.visit (c, k) := by
  obtain ⟨l₁, l₂, hids⟩ := List.append_of_mem ((s.mem_stationIds c k).mpr hk)
  have hnodup := s.stationIds_nodup
  rw [hids, List.nodup_middle, List.nodup_cons] at hnodup
  have hne : ∀ id ∈ l₁ ++ l₂, ¬ (id.1 = c ∧ id.2 = k) := by
    rintro ⟨d, l⟩ hid ⟨rfl, rfl⟩
    exact hnodup.1 hid
  rw [State.execute, hids, List.foldl_append, List.foldl_cons,
    State.foldl_visit_of_idle l₁ fun id hid => (hidle _ _ (hne id (List.mem_append_left _ hid))).1,
    State.foldl_visit_of_idle l₂ fun id hid => (hidle _ _ (hne id (List.mem_append_right _ hid))).2]

theorem State.fetchIssue_of_past {s : State} (h : s.cfg.progLen ≤ s.pc) : s.fetchIssue = .next s := by
  rw [State.fetchIssue, if_neg (BitVec.not_lt.mpr h)]

/-- While a `RET` is in flight Issue takes nothing (R181). -/
theorem State.fetchIssue_of_ret {s : State} (hlegal : ProgramLegal s.cfg) (h : s.retInFlight = true) :
    s.fetchIssue = .next s := by
  rcases s.fetchIssue_cases with ⟨-, hf⟩ | ⟨hpc, hnone, -⟩ | ⟨i, -, -, hf⟩
  · exact hf
  · obtain ⟨i, hi⟩ := hlegal _ hpc
    rw [hi] at hnone
    cases hnone
  · rw [hf, exec_eq, State.issue, if_pos h]

theorem State.writeDeliver_of_empty {s : State} (h : s.cdb = none) : s.writeDeliver = s := by
  simp [State.writeDeliver, h]

/-- With something in flight and budget left the run goes on (R229, R230). -/
theorem State.runControl_of_inFlight {s : State} (h : s.head ≠ s.tail) (hbudget : s.cycle < s.cfg.budget) :
    s.runControl = s := by
  rcases s.runControl_cases with ⟨hdone, -⟩ | ⟨-, hover, -⟩ | ⟨-, -, hr⟩
  · exact absurd (s.done_iff.mp hdone).2.2 h
  · exact absurd hover (Nat.not_le.mpr hbudget)
  · exact hr

/-! ## The state of a lone instruction -/

/-- One instruction, of opcode `op`, is in flight, with entry `e` in slot 0 and the record `r`, and Issue takes no other:
`pc` is past the program or the instruction is a `RET`. -/
structure Lone (c : Config) (op : Opcode) (s : State) (e : RobEntry) (r : Record) : Prop where
  inv : TickInv s
  cfg : s.cfg = c
  run : s.run = true
  retired : s.retired = 0
  head : s.head = 0
  tail : s.tail = 1
  entry : s.entry 0 = some e
  opcode : e.op = op
  trace : s.trace = [r]
  held : c.progLen ≤ s.pc ∨ op = .ret

namespace Lone
variable {c : Config} {op : Opcode} {s : State} {e : RobEntry} {r : Record}

/-- A stage that leaves the queue's indices, `pc` and the run alone. -/
theorem of_frame (h : Lone c op s e r) {t : State} {e' : RobEntry} {r' : Record} (hinv : TickInv t)
    (hcfg : t.cfg = s.cfg) (hrun : t.run = s.run) (hretired : t.retired = s.retired) (hhead : t.head = s.head)
    (htail : t.tail = s.tail) (hpc : t.pc = s.pc) (hentry : t.entry 0 = some e') (hop : e'.op = e.op)
    (htrace : t.trace = [r']) : Lone c op t e' r' :=
  ⟨hinv, hcfg.trans h.cfg, hrun.trans h.run, hretired.trans h.retired, hhead.trans h.head, htail.trans h.tail, hentry,
    hop.trans h.opcode, htrace, hpc ▸ h.held⟩

theorem head_ne_tail (h : Lone c op s e r) : s.head ≠ s.tail := by
  rw [h.head, h.tail]
  decide

theorem age_zero (h : Lone c op s e r) : s.age 0 = 0 := by
  have := s.age_head h.inv.queue.headLt
  rwa [h.head] at this

theorem count (h : Lone c op s e r) : s.count = 1 := by
  rw [s.count_eq h.inv.queue.headLt h.inv.queue.tailLt, h.head, h.tail]
  rfl

/-- There is no other entry. -/
theorem slot_eq_zero (h : Lone c op s e r) {p : Nat} {e' : RobEntry} (he' : s.entry p = some e') : p = 0 := by
  obtain ⟨hp, hage⟩ := (h.inv.queue.occupied p).mp ⟨e', he'⟩
  rw [h.count, Nat.lt_one_iff, ← h.age_zero] at hage
  exact s.age_inj h.inv.queue.headLt hp ((h.inv.queue.occupied 0).mp ⟨e, h.entry⟩).1 hage

/-- The one record is the entry's. -/
theorem seq (h : Lone c op s e r) : e.seq = 0 := by
  have hlt := (h.inv.queue.entries 0 e h.entry).seqIssued
  rw [← h.inv.data.traceLength, h.trace] at hlt
  exact Nat.lt_one_iff.mp hlt

theorem trace_modify (h : Lone c op s e r) (g : Record → Record) : s.trace.modify e.seq g = [g r] := by
  rw [h.seq, h.trace]
  rfl

theorem rob_eq_zero (h : Lone c op s e r) {d : Opcode} {l : Nat} {st : Station} (hst : s.station d l = some st) :
    st.rob = 0 := by
  obtain ⟨e', he', -⟩ := h.inv.entry_of_station hst
  exact h.slot_eq_zero he'

/-- There is no other busy station. -/
theorem station_of_other (h : Lone c op s e r) {d d' : Opcode} {l l' : Nat} {st : Station}
    (hst : s.station d l = some st) (hne : ¬ (d' = d ∧ l' = l)) : s.station d' l' = none := by
  cases hst' : s.station d' l' with
  | none => rfl
  | some st' =>
    exact absurd (h.inv.station_unique hst hst' ((h.rob_eq_zero hst').trans (h.rob_eq_zero hst).symm)) hne

/-- A lone station waits on nothing (R45). -/
theorem operand_value (h : Lone c op s e r) {o : Operand} (ho : TagInv s 0 o) : ∃ v, o = .value v := by
  cases o with
  | value v => exact ⟨v, rfl⟩
  | waits q =>
    obtain ⟨-, -, hage, -⟩ := ho q rfl
    rw [h.age_zero] at hage
    cases hage

/-- Issue takes nothing. -/
theorem fetchIssue (h : Lone c op s e r) (hlegal : ProgramLegal c) : s.fetchIssue = .next s := by
  rcases h.held with hpc | hret
  · exact State.fetchIssue_of_past (h.cfg ▸ hpc)
  · refine State.fetchIssue_of_ret (h.cfg ▸ hlegal) ((s.retInFlight_iff h.inv.queue.headLt).mpr ?_)
    exact ⟨0, e, (h.inv.queue.occupied 0).mp ⟨e, h.entry⟩, h.entry, h.opcode.trans hret⟩

/-- Commit waits for the result (R195). -/
theorem commit_of_waiting (h : Lone c op s e r) (hv : e.value = none) : s.commit = s := by
  rcases s.commit_cases with ⟨-, hc⟩ | ⟨e', hready, -⟩
  · exact hc
  · obtain ⟨-, he', -, hval⟩ := (s.readyHead_eq_some e').mp hready
    rw [h.head] at he'
    cases h.entry.symm.trans he'
    simp [hv] at hval

theorem next_cycle (h : Lone c op s e r) (hcdb : s.cdb = none) :
    Lone c op { s with cycle := s.cycle + 1 } e r :=
  h.of_frame (((inv_iff_tickInv s).mpr ⟨h.inv, hcdb⟩).congr_control rfl).tick rfl rfl rfl rfl rfl rfl h.entry rfl
    h.trace

/-- The tick of a lone instruction that stays in flight. -/
theorem step_eq (h : Lone c op s e r) (hcdb : s.cdb = none) (hlegal : ProgramLegal c) {e' : RobEntry} {r' : Record}
    (hbefore : Lone c op s.beforeIssue e' r') (hbudget : s.cycle + 1 < c.budget) :
    Machine.step s = .next s.beforeIssue.writeDeliver := by
  obtain ⟨-, hcycle, -⟩ := s.beforeIssue_frame
  obtain ⟨hcfg, -, -, -, hhead, htail, -, hcycle', -⟩ := s.beforeIssue.writeDeliver_frame
  rw [step_running h.run ((inv_iff_tickInv s).mpr ⟨h.inv, hcdb⟩), hbefore.fetchIssue hlegal, finishTick_next,
    State.afterIssue, State.runControl_of_inFlight]
  · rw [hhead, htail]
    exact hbefore.head_ne_tail
  · rw [hcfg, hbefore.cfg, hcycle', hcycle]
    exact hbudget

end Lone

/-! ## A tick of execution (R186, R187) -/

/-- A station with both operands and cycles left is advanced, unless the test of R188 holds it back. -/
theorem TickInv.visited_of_ready {s : State} (h : TickInv s) {c : Opcode} {k : Nat} {st : Station} {vj vk : Word}
    (hst : s.station c k = some st) (hj : st.j = .value vj) (hk : st.k = .value vk) (hleft : st.left ≠ 0)
    (hheld : s.heldBack st vj = false) : Visited s (s.visit (c, k)) c k st vj vk := by
  rcases h.visit_cases c k with hv | ⟨st', vj', vk', hv⟩
  · have hadvanced : (s.visit (c, k)).rs = (s.setStation c k (some (st.advanced vj vk s.mem))).rs := by
      have hvisit : s.visit (c, k) = s.visitReady c k st vj vk := by simp [State.visit, hst, hj, hk, hleft]
      rw [hvisit, State.visitReady]
      cases hs : st.started with
      | true => exact s.rs_countDown c k st vj vk
      | false =>
        rw [if_neg (by decide), hheld, if_neg (by decide), State.rs_countDown, State.setStation_rs,
          State.setStation_rs]
        simp
    have hsame := State.station_congr hadvanced c k
    rw [hv, hst, State.station_setStation, if_pos ⟨rfl, rfl, s.station_lt hst⟩, Option.some_inj] at hsame
    have := congrArg Station.left hsame
    simp only [Station.advanced] at this
    omega
  · cases hst.symm.trans hv.station
    cases hj.symm.trans hv.slotJ
    cases hk.symm.trans hv.slotK
    exact hv

end Sys2Proof.Machine
end

section
/-! The ticks of a lone instruction: its cycles of execution, its broadcast and its commit, with the stamps of R197
(45_pipeline_driver.md R186, R191, R193, R195). -/

namespace Sys2Proof.Machine

theorem State.arch_pc (s : State) : s.arch.pc = s.pc := rfl

theorem State.arch_stop (s : State) (st : Status) : (s.stop st).arch = s.arch := rfl

theorem Emptied.writeArbitrate {s : State} (h : Emptied s) : s.writeArbitrate = s :=
  State.writeArbitrate_of_no_result fun c k st hst => by
    rw [h.station] at hst
    cases hst

namespace Lone
variable {c : Config} {op : Opcode} {s : State} {e : RobEntry} {r : Record}

/-! ## Execution (R186, R187) -/

/-- A lone station is advanced by its visit, and is all there is to visit. -/
theorem execute_visited (h : Lone c op s e r) {k : Nat} {st : Station} (hst : s.station op k = some st)
    (hleft : st.left ≠ 0) :
    ∃ vj vk, Visited s s.execute op k st vj vk ∧ Lone c op s.execute e.executing (Record.visited st s.cycle r) := by
  have hstinv := h.inv.pool.stations op k st hst
  have hrob := h.rob_eq_zero hst
  obtain ⟨vj, hj⟩ := h.operand_value (hrob ▸ hstinv.tagJ)
  obtain ⟨vk, hk⟩ := h.operand_value (hrob ▸ hstinv.tagK)
  have hpass : s.heldBack st vj = false := by
    simp [State.heldBack, State.loadBlocked, hrob, h.age_zero]
  have hv := h.inv.visited_of_ready hst hj hk hleft hpass
  have hexecute : s.execute = s.visit (op, k) := by
    refine State.execute_of_single (s.station_lt hst) fun d l hdl => ?_
    have hidle := h.station_of_other hst hdl
    exact ⟨hidle, by rw [hv.station_eq, if_neg hdl, hidle]⟩
  obtain ⟨hcfg, -, -, hpc, hhead, htail, -, -, -, hretired, -, -, -, -, hrun⟩ := s.visit_frame (op, k)
  have hentry : (s.visit (op, k)).entry 0 = some e.executing := by rw [hv.entry_some h.entry, if_pos hrob.symm]
  have htrace : (s.visit (op, k)).trace = [Record.visited st s.cycle r] := by
    rw [hv.trace e (hrob.symm ▸ h.entry), h.trace_modify]
  rw [hexecute]
  exact ⟨vj, vk, hv, h.of_frame (h.inv.visit _) hcfg hrun hretired hhead htail hpc hentry rfl htrace⟩

/-- Before the last cycle of execution arbitration finds no result (R136, R191). -/
theorem writeArbitrate_of_executing (h : Lone c op s e r) {k : Nat} {st : Station} (hst : s.station op k = some st)
    (hleft : st.left ≠ 0) : s.writeArbitrate = s := by
  refine State.writeArbitrate_of_no_result fun d l st' hst' => ?_
  by_cases hdl : d = op ∧ l = k
  · obtain ⟨rfl, rfl⟩ := hdl
    cases hst.symm.trans hst'
    exact Option.not_isSome_iff_eq_none.mp ((h.inv.pool.stations d l st hst).resultReady.not.mpr hleft)
  · rw [h.station_of_other hst hdl] at hst'
    cases hst'

/-- A tick of execution. -/
theorem step_executing (h : Lone c op s e r) (hcdb : s.cdb = none) (hlegal : ProgramLegal c)
    (hbudget : s.cycle + 1 < c.budget) {k : Nat} {st : Station} (hst : s.station op k = some st)
    (hleft : st.left ≠ 0) :
    ∃ t, Machine.step s = .next t ∧ Lone c op t e.executing (Record.visited st (s.cycle + 1) r) ∧ t.cdb = none ∧
      t.cycle = s.cycle + 1 ∧ ∃ vj vk, t.station op k = some (st.advanced vj vk s.mem) := by
  have hnext := h.next_cycle hcdb
  obtain ⟨e', he', -, -, -, hv, -⟩ := h.inv.entry_of_station hst
  rw [h.rob_eq_zero hst, h.entry] at he'
  cases he'
  have hbefore : s.beforeIssue = State.execute { s with cycle := s.cycle + 1 } := by
    simp only [State.beforeIssue]
    rw [hnext.commit_of_waiting hv, hnext.writeArbitrate_of_executing hst hleft]
  obtain ⟨vj, vk, hvisited, hlone⟩ := hnext.execute_visited hst hleft
  obtain ⟨-, -, -, -, -, -, -, hcdb', hcycle, -⟩ := State.execute_frame { s with cycle := s.cycle + 1 }
  have hempty := hcdb'.trans hcdb
  rw [← hbefore] at hlone hvisited hcycle hempty
  refine ⟨s.beforeIssue, ?_, hlone, hempty, hcycle, vj, vk, ?_⟩
  · rw [h.step_eq hcdb hlegal hlone hbudget, State.writeDeliver_of_empty hempty]
  · rw [hvisited.station_eq, if_pos ⟨rfl, rfl⟩]

/-! ## Broadcast (R191, R193) -/

/-- The lone result gets the bus. -/
theorem writeArbitrate_of_finished (h : Lone c op s e r) (hcdb : s.cdb = none) {k : Nat} {st : Station}
    (hst : s.station op k = some st) (hleft : st.left = 0) :
    Lone c op s.writeArbitrate e (r.set .written s.cycle) ∧ (∃ m, s.writeArbitrate.cdb = some m) ∧
      ∀ d l, s.writeArbitrate.station d l = none := by
  obtain ⟨res, hres⟩ := Option.isSome_iff_exists.mp ((h.inv.pool.stations op k st hst).resultReady.mpr hleft)
  have hmem : Candidate.mk op k st.rob res ∈ s.candidates := (s.mem_candidates _).mpr ⟨st, hst, hres, rfl⟩
  obtain ⟨d, hd⟩ : ∃ d, s.oldestCandidate = some d := by
    cases hoc : s.oldestCandidate with
    | some d => exact ⟨d, rfl⟩
    | none =>
      rw [s.oldestCandidate_spec.1.mp hoc] at hmem
      cases hmem
  obtain ⟨st', hst', -, hback⟩ := (s.mem_candidates d).mp (s.oldestCandidate_spec.2 d hd).1
  obtain ⟨hbus, -, htrace⟩ := State.writeArbitrate_of_candidate hd
  obtain ⟨hcfg, -, -, hpc, hrob, hhead, htail, -, -, hretired, -, -, -, -, hrun⟩ := s.writeArbitrate_frame
  have hentry : s.entry d.rob = some e := by rw [← hback, h.rob_eq_zero hst', h.entry]
  refine ⟨h.of_frame (h.inv.writeArbitrate hcdb) hcfg hrun hretired hhead htail hpc
    ((State.entry_congr hrob 0).trans h.entry) rfl ?_, ⟨_, hbus⟩, fun d' l' => ?_⟩
  · rw [htrace, State.trace_stampEntry hentry, h.trace_modify]
  · rw [s.station_writeArbitrate, hd]
    by_cases hdl : d' = d.cls ∧ l' = d.num
    · simp [hdl]
    · simp [hdl, h.station_of_other hst' hdl]

/-- Delivery makes the lone entry ready (R193). -/
theorem writeDeliver_of_message (h : Lone c op s e r) {m : CdbMsg} (hm : s.cdb = some m) :
    Lone c op s.writeDeliver (e.deliver m) r := by
  obtain ⟨hcfg, -, -, hpc, hhead, htail, -, -, hretired, -, -, -, -, hrun, htrace, -⟩ := s.writeDeliver_frame
  obtain ⟨e', he', -⟩ := h.inv.entry_of_message hm
  refine h.of_frame h.inv.inv_writeDeliver.tick hcfg hrun hretired hhead htail hpc ?_ rfl (htrace.trans h.trace)
  rw [s.entry_writeDeliver hm, if_pos (h.slot_eq_zero he').symm, h.entry]
  rfl

/-- The tick after execution has ended: broadcast and delivery. -/
theorem step_finished (h : Lone c op s e r) (hcdb : s.cdb = none) (hlegal : ProgramLegal c)
    (hbudget : s.cycle + 1 < c.budget) {k : Nat} {st : Station} (hst : s.station op k = some st)
    (hleft : st.left = 0) :
    ∃ t m, Machine.step s = .next t ∧ Lone c op t (e.deliver m) (r.set .written (s.cycle + 1)) ∧ t.cdb = none ∧
      t.cycle = s.cycle + 1 := by
  have hnext := h.next_cycle hcdb
  obtain ⟨e', he', -, -, -, hv, -⟩ := h.inv.entry_of_station hst
  rw [h.rob_eq_zero hst, h.entry] at he'
  cases he'
  obtain ⟨hlone, ⟨m, hm⟩, hidle⟩ := hnext.writeArbitrate_of_finished hcdb hst hleft
  have hbefore : s.beforeIssue = State.writeArbitrate { s with cycle := s.cycle + 1 } := by
    simp only [State.beforeIssue]
    rw [hnext.commit_of_waiting hv, State.execute_of_idle hidle]
  rw [← hbefore] at hlone hm
  obtain ⟨-, hcycle, -⟩ := s.beforeIssue_frame
  obtain ⟨-, -, -, -, -, -, -, hcycle', -, -, -, -, -, -, -, hempty⟩ := s.beforeIssue.writeDeliver_frame
  exact ⟨_, m, h.step_eq hcdb hlegal hlone hbudget, hlone.writeDeliver_of_message hm, hempty, hcycle'.trans hcycle⟩

/-! ## Commit (R195) -/

/-- The lone instruction has committed, with the record `r`, and left the architectural state `a`. -/
structure Committed (c : Config) (a : Arch) (s : State) (r : Record) : Prop where
  emptied : Emptied s
  cfg : s.cfg = c
  cdb : s.cdb = none
  arch : s.arch = a
  retired : s.retired = 1
  trace : s.trace = [r]

theorem readyHead_of_written (h : Lone c op s e r) (hphase : e.phase = .written) : s.readyHead = some e := by
  refine (s.readyHead_eq_some e).mpr ⟨h.head_ne_tail, ?_, hphase, ?_⟩
  · rw [h.head, h.entry]
  · exact (h.inv.queue.entries 0 e h.entry).writtenIffReady.mp hphase

/-- The simulation says what a lone instruction leaves when it commits. -/
theorem commit_of_written (h : Lone c op s e r) (hcdb : s.cdb = none) (hsim : SimInv s) (hphase : e.phase = .written)
    {a : Arch} (hrun : Arch.run c 1 (State.initial c).arch = some a) :
    Committed c a s.commit (r.set .committed s.cycle) := by
  have hcommitted := hsim.commit h.inv hcdb
  obtain ⟨hinv, hempty⟩ := h.inv.commit hcdb
  obtain ⟨hcfg, -, -, -, -, -, hretired, hhead⟩ := s.retire_frame e
  have htrace := s.trace_retire e
  obtain ⟨-, htail⟩ := s.retire_queue e
  rw [← State.commit_of_ready (h.readyHead_of_written hphase)] at hcfg hretired hhead htrace htail
  rw [h.cfg] at hcfg
  rw [h.retired] at hretired
  have hindices : s.commit.head = s.commit.tail := by
    rcases htail with htail | ⟨htail, -⟩
    · have hsize := h.inv.queue.tailLt
      rw [h.tail] at hsize
      rw [hhead, htail, h.tail, h.head]
      exact Nat.mod_eq_of_lt hsize
    · rw [hhead, htail]
  have hidle := hinv.emptied hindices
  refine ⟨hidle, hcfg, hempty, ?_, hretired, htrace.trans (h.trace_modify _)⟩
  have hfrontier := hcommitted.frontier
  rw [hcfg, hretired, hrun, hidle.frontier, Option.some_inj] at hfrontier
  exact hfrontier.symm

/-- The tick in which a lone instruction whose path leaves the program commits: the run is done. -/
theorem step_written (h : Lone c op s e r) (hcdb : s.cdb = none) (hsim : SimInv s) (hphase : e.phase = .written)
    {a : Arch} (hrun : Arch.run c 1 (State.initial c).arch = some a) (hpast : c.progLen ≤ a.pc) :
    ∃ t, Machine.step s = .next t ∧ t.arch = a ∧ t.run = false ∧ t.status = .doneOk ∧ t.cycle = s.cycle + 1 ∧
      t.retired = 1 ∧ t.trace = [r.set .committed (s.cycle + 1)] := by
  have hsim' : SimInv { s with cycle := s.cycle + 1 } :=
    hsim.of_rob_eq h.inv (.of_rob_eq rfl rfl rfl rfl rfl rfl rfl rfl) rfl fun _ _ _ => id
  have hdone := (h.next_cycle hcdb).commit_of_written hcdb hsim' hphase hrun
  have hbefore : s.beforeIssue = State.commit { s with cycle := s.cycle + 1 } := by
    simp only [State.beforeIssue]
    rw [hdone.emptied.writeArbitrate, State.execute_of_idle hdone.emptied.station]
  rw [← hbefore] at hdone
  obtain ⟨-, hcycle, -⟩ := s.beforeIssue_frame
  have hpc : s.beforeIssue.cfg.progLen ≤ s.beforeIssue.pc := by
    rw [hdone.cfg, ← State.arch_pc, hdone.arch]
    exact hpast
  have hend : s.beforeIssue.done = true :=
    s.beforeIssue.done_iff.mpr ⟨hpc, hdone.emptied.station, hdone.emptied.indices⟩
  refine ⟨s.beforeIssue.stop .doneOk, ?_, (s.beforeIssue.arch_stop _).trans hdone.arch, rfl, rfl,
    (s.beforeIssue.stop_cycle _).trans hcycle, (s.beforeIssue.stop_retired _).trans hdone.retired,
    (s.beforeIssue.stop_trace _).trans hdone.trace⟩
  rw [step_running h.run ((inv_iff_tickInv s).mpr ⟨h.inv, hcdb⟩), State.fetchIssue_of_past hpc, finishTick_next,
    State.afterIssue, State.writeDeliver_of_empty hdone.cdb, State.runControl, if_pos hend]

end Lone

/-! ## The first tick (R180, R183) -/

/-- The record of a lone instruction that was issued in cycle 1 and has executed for `n` of its `latency` cycles (R186,
R187, R197). -/
def loneRecord (idx : Word) (op : Opcode) (latency n : Nat) : Record where
  idx := idx
  op := op
  issued := some 1
  execStart := if 0 < n then some 2 else none
  execEnd := if n = latency then some (latency + 1) else none

/-- A class the program uses has a station (R252). -/
theorem hasStation_of_startCheck {c : Config} (h : startCheck c = none) {n : Nat} (hn : n < c.progLen.toNat) {i : Instr}
    (hi : c.instrAt n = some i) : 1 ≤ c.rsCount.get i.opcode := by
  unfold startCheck at h
  split at h
  · cases h
  · split at h
    · cases h
    · have hword := List.findSome?_eq_none_iff.mp h n (List.mem_range.mpr hn)
      by_contra hcount
      simp [checkWord, hi, Instr.hasStation, Nat.lt_one_iff.mp (Nat.lt_of_not_le hcount)] at hword

/-- Nothing has been issued yet, and `n` cycles are counted. -/
structure Fresh (c : Config) (n : Nat) (s : State) : Prop where
  inv : TickInv s
  emptied : Emptied s
  cdb : s.cdb = none
  cfg : s.cfg = c
  run : s.run = true
  retired : s.retired = 0
  head : s.head = 0
  tail : s.tail = 0
  pc : s.pc = c.startPC
  trace : s.trace = []
  cycle : s.cycle = n

theorem fresh_started {c : Config} (hc : startCheck c = none) : Fresh c 0 (State.started c) := by
  have hinv := (invariantAtStart c hc).tick
  rw [started_of_check hc] at hinv ⊢
  exact ⟨hinv, hinv.emptied rfl, rfl, rfl, rfl, rfl, rfl, rfl, rfl, rfl, rfl⟩

namespace Fresh
variable {c : Config} {n : Nat} {s : State}

theorem tickBoundary (h : Fresh c n s) : Inv s := (inv_iff_tickInv s).mpr ⟨h.inv, h.cdb⟩

/-- With nothing in flight the tick up to Issue only counts the cycle (R170). -/
theorem beforeIssue (h : Fresh c n s) : Fresh c (n + 1) s.beforeIssue := by
  have hnext : Fresh c (n + 1) { s with cycle := s.cycle + 1 } :=
    ⟨(h.tickBoundary.congr_control rfl).tick,
      ⟨h.head.trans h.tail.symm, h.emptied.entry, h.emptied.station, h.emptied.stat⟩,
      h.cdb, h.cfg, h.run, h.retired, h.head, h.tail, h.pc, h.trace, congrArg Nat.succ h.cycle⟩
  have hready : State.readyHead { s with cycle := s.cycle + 1 } = none := by
    simp [State.readyHead, State.robEmpty, h.emptied.indices]
  have hbefore : s.beforeIssue = { s with cycle := s.cycle + 1 } := by
    simp only [State.beforeIssue]
    rw [State.commit_of_not_ready hready, hnext.emptied.writeArbitrate, State.execute_of_idle hnext.emptied.station]
  rw [hbefore]
  exact hnext

/-- Issue accepts the first instruction, into the first station of its class (R180). -/
theorem accepts (h : Fresh c n s) (hsize : 2 ≤ c.robSize) {op : Opcode} (hcount : 1 ≤ c.rsCount.get op) :
    Accepts s op 0 where
  noRet := by
    rw [← Bool.not_eq_true, s.retInFlight_iff h.inv.queue.headLt]
    rintro ⟨p, e, -, he, -⟩
    rw [h.emptied.entry] at he
    cases he
  notFull := by
    rw [h.cfg, h.tail, h.head, Nat.mod_eq_of_lt (by omega)]
    decide
  free := ⟨by rw [h.inv.pool.stationCount, h.cfg]; exact hcount, h.emptied.station _ _⟩
  lowest _ hlt := by cases hlt
  tailSlot := h.inv.queue.robLength ▸ h.inv.queue.tailLt

/-- The first instruction, issued in cycle 1, is alone where Issue can take no other after it. -/
theorem allocate {i : Instr} (h : Fresh c 1 s) (hsize : 2 ≤ c.robSize) (hlat : 1 ≤ c.lat.get i.opcode)
    (hcount : 1 ≤ c.rsCount.get i.opcode) (hpc : c.startPC < c.progLen)
    (hi : c.instrAt c.startPC.toNat = some i) (hheld : c.progLen ≤ Instr.fetchedNext i c.startPC ∨ i.opcode = .ret) :
    s.issue (requestOf s i) = s.allocate (requestOf s i) 0 ∧
      Lone c i.opcode (s.allocate (requestOf s i) 0) (s.newEntry (requestOf s i))
        (loneRecord c.startPC i.opcode (c.lat.get i.opcode) 0) := by
  have haccepts := h.accepts hsize hcount
  rw [← requestOf_op s] at haccepts
  have hissue := s.issue_of_accepts _ haccepts
  have hpc' : s.pc < s.cfg.progLen := by rwa [h.pc, h.cfg]
  have hi' : s.cfg.instrAt s.pc.toNat = some i := by rwa [h.pc, h.cfg]
  refine ⟨hissue, hissue ▸ h.inv.issue hpc' hi', h.cfg, h.run, h.retired, h.head, ?_, ?_, requestOf_op s i, ?_, ?_⟩
  · rw [State.allocate_tail, h.tail, State.n, h.cfg]
    exact Nat.mod_eq_of_lt hsize
  · rw [h.inv.queue.entry_allocate, if_pos h.tail.symm]
  · rw [State.allocate_trace, h.trace, State.newRecord, requestOf_op, h.pc, h.cycle, loneRecord,
      if_neg (Nat.ne_of_lt hlat)]
    rfl
  · rwa [State.allocate_pc, requestOf_nextPC, h.pc]

end Fresh

/-! ## The whole passage (R197) -/

/-- The lone instruction has executed for `n` cycles. -/
def ExecutedFor (c : Config) (op : Opcode) (n : Nat) (s : State) : Prop :=
  ∃ e k st, Lone c op s e (loneRecord c.startPC op (c.lat.get op) n) ∧ s.cdb = none ∧ s.cycle = n + 1 ∧
    s.station op k = some st ∧ st.left + n = c.lat.get op ∧ st.started = decide (0 < n)

theorem Fresh.executedFor {c : Config} {s : State} (h : Fresh c 1 s) {i : Instr}
    (hlone : Lone c i.opcode (s.allocate (requestOf s i) 0) (s.newEntry (requestOf s i))
      (loneRecord c.startPC i.opcode (c.lat.get i.opcode) 0))
    (haccepts : Accepts s i.opcode 0) : ExecutedFor c i.opcode 0 (s.allocate (requestOf s i) 0) := by
  refine ⟨_, 0, s.newStation (requestOf s i), hlone, h.cdb, h.cycle, ?_, ?_, rfl⟩
  · rw [s.station_allocate _ _ _ _ (by rw [requestOf_op]; exact haccepts.free.1), requestOf_op, if_pos ⟨rfl, rfl⟩]
  · simp [State.newStation, h.cfg]

/-- The first tick. -/
theorem Fresh.step {c : Config} {s : State} (h : Fresh c 0 s) {i : Instr} (hsize : 2 ≤ c.robSize)
    (hlat : 1 ≤ c.lat.get i.opcode) (hcount : 1 ≤ c.rsCount.get i.opcode) (hpc : c.startPC < c.progLen)
    (hi : c.instrAt c.startPC.toNat = some i) (hheld : c.progLen ≤ Instr.fetchedNext i c.startPC ∨ i.opcode = .ret)
    (hbudget : 1 < c.budget) : ∃ t, Machine.step s = .next t ∧ ExecutedFor c i.opcode 0 t := by
  have hbefore := h.beforeIssue
  obtain ⟨hissue, hlone⟩ := hbefore.allocate hsize hlat hcount hpc hi hheld
  have hexecuted := hbefore.executedFor hlone (hbefore.accepts hsize hcount)
  have hfetch : s.beforeIssue.fetchIssue = .next (s.beforeIssue.allocate (requestOf s.beforeIssue i) 0) := by
    rw [State.fetchIssue, hbefore.cfg, hbefore.pc, if_pos hpc, hi, ← hissue]
    exact exec_eq i s.beforeIssue
  obtain ⟨-, -, -, -, hcdb, hcycle, -⟩ := id hexecuted
  refine ⟨_, ?_, hexecuted⟩
  rw [step_running h.run h.tickBoundary, hfetch, finishTick_next, State.afterIssue, State.writeDeliver_of_empty hcdb,
    State.runControl_of_inFlight hlone.head_ne_tail]
  rw [hcycle, hlone.cfg]
  exact hbudget

/-- A cycle of execution begins the record's `execStart` or, in the last one, its `execEnd` (R187). -/
theorem loneRecord_visited {idx : Word} {op : Opcode} {latency n : Nat} {st : Station} (hleft : st.left + n = latency)
    (hstarted : st.started = decide (0 < n)) (hn : n < latency) :
    Record.visited st (n + 1 + 1) (loneRecord idx op latency n) = loneRecord idx op latency (n + 1) := by
  have hstart : (if st.started then if 0 < n then some 2 else none else some (n + 1 + 1)) =
      if 0 < n + 1 then some 2 else none := by
    cases n <;> simp [hstarted]
  have hend : (if st.left = 1 then some (n + 1 + 1) else if n = latency then some (latency + 1) else none) =
      if n + 1 = latency then some (latency + 1) else none := by
    by_cases hlast : n + 1 = latency
    · rw [if_pos (by omega), if_pos hlast, hlast]
    · rw [if_neg (by omega), if_neg hn.ne, if_neg hlast]
  rw [Record.visited, loneRecord, loneRecord, hstart, hend]

/-- Broadcast and commit complete the record to that of R197. -/
theorem loneRecord_committed {idx : Word} {op : Opcode} {latency : Nat} (hlat : 1 ≤ latency) :
    ((loneRecord idx op latency latency).set .written (latency + 1 + 1)).set .committed (latency + 1 + 1 + 1) =
      uncontendedRecord idx op 1 latency := by
  simp only [loneRecord, uncontendedRecord, Record.set, Record.mk.injEq, if_pos (Nat.lt_of_succ_le hlat), if_true,
    Option.some_inj, true_and]
  omega

theorem ExecutedFor.step {c : Config} {op : Opcode} {n : Nat} {s : State} (h : ExecutedFor c op n s)
    (hlegal : ProgramLegal c) (hn : n < c.lat.get op) (hbudget : n + 2 < c.budget) :
    ∃ t, Machine.step s = .next t ∧ ExecutedFor c op (n + 1) t := by
  obtain ⟨e, k, st, hlone, hcdb, hcycle, hst, hleft, hstarted⟩ := h
  obtain ⟨t, ht, hlone', hcdb', hcycle', vj, vk, hst'⟩ :=
    hlone.step_executing hcdb hlegal (by rw [hcycle]; exact hbudget) hst (by omega)
  have hrecord : Record.visited st (s.cycle + 1) (loneRecord c.startPC op (c.lat.get op) n) =
      loneRecord c.startPC op (c.lat.get op) (n + 1) := by
    rw [hcycle]
    exact loneRecord_visited hleft hstarted hn
  exact ⟨t, ht, _, k, _, hrecord ▸ hlone', hcdb', by rw [hcycle', hcycle], hst',
    by simp only [Station.advanced]; omega, by simp [Station.advanced]⟩

theorem ExecutedFor.of_steps {c : Config} {op : Opcode} {s : State} (hlegal : ProgramLegal c)
    (hbudget : c.lat.get op + 3 ≤ c.budget) {t₀ : State} (h₀ : Machine.step s = .next t₀)
    (h : ExecutedFor c op 0 t₀) (n : Nat) (hn : n ≤ c.lat.get op) :
    ∃ t, steps (n + 1) s = .next t ∧ ExecutedFor c op n t := by
  induction n with
  | zero => exact ⟨t₀, h₀, h⟩
  | succ n ih =>
    obtain ⟨t, ht, hexec⟩ := ih (Nat.le_of_succ_le hn)
    obtain ⟨u, hu, hexec'⟩ := hexec.step hlegal hn (by omega)
    exact ⟨u, (steps_succ _ _ ht).trans hu, hexec'⟩

/-- Where the next index is past the program, or the effect of a `CALL` is, Issue has nothing to go on with (R184). -/
theorem fetchedNext_past {c : Config} {i : Instr} {a : Arch}
    (hnext : c.progLen ≤ a.pc + 1 ∨ i.opcode = .call ∨ i.opcode = .ret) (hpast : c.progLen ≤ (a.effect i).pc) :
    c.progLen ≤ Instr.fetchedNext i a.pc ∨ i.opcode = .ret := by
  rcases hnext with hnext | hcall | hret
  · cases i with
    | call target => exact .inl hpast
    | _ => exact .inl hnext
  · cases i with
    | call target => exact .inl hpast
    | _ => cases hcall
  · exact .inr hret

/-- Settles O59: issue in cycle 1, `L` cycles of execution, broadcast and commit; what the simulation says of the one
retired instruction is its effect. -/
theorem loneInstructionTakesItsEffect : Obligations.LoneInstructionTakesItsEffect := by
  intro c i hc hsize hpc hi hnext hpast hbudget
  obtain ⟨-, hlat, hlegal⟩ := startCheck_eq_none hc
  have hpcNat : c.startPC.toNat < c.progLen.toNat := hpc
  have hrun : Arch.run c 1 (State.initial c).arch = some ((State.initial c).arch.effect i) := by
    simp [Arch.run, Arch.next, State.arch, State.initial, hpc, hi]
  obtain ⟨t₀, h₀, hexec₀⟩ := (fresh_started hc).step hsize (hlat _) (hasStation_of_startCheck hc hpcNat hi) hpc hi
    (fetchedNext_past hnext hpast) (by omega)
  obtain ⟨t₁, h₁, e, k, st, hlone, hcdb, hcycle, hst, hleft, -⟩ :=
    ExecutedFor.of_steps hlegal hbudget h₀ hexec₀ _ le_rfl
  obtain ⟨t₂, m, h₂, hlone₂, hcdb₂, hcycle₂⟩ :=
    hlone.step_finished hcdb hlegal (by omega) hst (by omega)
  have hsteps₂ : steps (c.lat.get i.opcode + 2) (State.started c) = .next t₂ := (steps_succ _ _ h₁).trans h₂
  have hsim : SimInv t₂ := Reached.simInv ⟨hc, _, hsteps₂⟩
  obtain ⟨t, ht, harch, hstopped, hstatus, hcycle', hretired, htrace⟩ :=
    hlone₂.step_written hcdb₂ hsim rfl hrun hpast
  refine ⟨t, (steps_succ _ _ hsteps₂).trans ht, harch, hstopped, hstatus, by omega, hretired, ?_⟩
  rw [htrace, hcycle₂, hcycle]
  exact congrArg (fun r => [r]) (loneRecord_committed (hlat i.opcode))

end Sys2Proof.Machine
end

section
/-! Issue of an accepted LOAD or STORE gives the allocated state of its own request (41_loadstore.md R111, R112,
45_pipeline_driver.md R180, R183, R184). -/

namespace Sys2Proof.Machine

/-- Settles O12: the request of a `LOAD` has its base in slot j, nothing in slot k, and its offset in the immediate. -/
theorem loadIssues : Obligations.LoadIssues := by
  intro s rA rB imm k h
  obtain ⟨t, ht, hissued⟩ := Accepts.exec_issuedInto (i := .load rA rB imm) h
  exact ⟨t, _, ht, hissued⟩

/-- Settles O13: the request of a `STORE` has its data in slot j, its base in slot k, and a memory word whose address
is not known yet as its destination. -/
theorem storeIssues : Obligations.StoreIssues := by
  intro s rA rB imm k h
  obtain ⟨t, ht, hissued⟩ := Accepts.exec_issuedInto (i := .store rA rB imm) h
  exact ⟨t, _, ht, hissued⟩

end Sys2Proof.Machine
end

section
/-! BEQ, CALL and RET (42_control.md R121 to R123): Issue of an accepted one gives the allocated state of its own
request; Commit of a BEQ not taken and of a RET is its side effect and the retirement every head gets; and the two
writers of `pc` in a tick, Commit and then Issue (45_pipeline_driver.md R170, R184, R195, 47_pc_run_control.md R225). -/

namespace Sys2Proof.Machine

/-! ## Issue (R183, R184) -/

/-- Settles O14: the request of a `BEQ` is its two sources, its target and the next index, with no destination. -/
theorem beqIssues : Obligations.BeqIssues := by
  intro s rA rB target k h
  obtain ⟨t, ht, hissued⟩ := Accepts.exec_issuedInto (i := .beq rA rB target) h
  exact ⟨t, _, ht, hissued⟩

/-- Settles O15: the request of a `CALL` has no source, `R1` as its destination, and its target as the next `pc`. -/
theorem callIssues : Obligations.CallIssues := by
  intro s target k h
  obtain ⟨t, ht, hissued⟩ := Accepts.exec_issuedInto (i := .call target) h
  exact ⟨t, _, ht, hissued⟩

/-- Settles O16: the request of a `RET` has `R1` as its one source and no destination. -/
theorem retIssues : Obligations.RetIssues := by
  intro s k h
  obtain ⟨t, ht, hissued⟩ := Accepts.exec_issuedInto (i := .ret) h
  exact ⟨t, _, _, ht, hissued⟩

/-! ## Commit of a `BEQ` not taken and of a `RET` (R121, R123, R195) -/

/-- The side effect of a `BEQ` that is not taken is its count. -/
theorem State.sideEffect_of_beq_not_taken (s : State) {e : RobEntry} (hop : e.op = .beq)
    (hout : e.outcome ≠ some true) : s.sideEffect e = { s with branches := s.branches + 1 } := by
  simp [State.sideEffect, hop, retireBeq, hout]

/-- The side effect of a `RET` is the redirection to the value it carried. -/
theorem State.sideEffect_of_ret (s : State) {e : RobEntry} {v : Word} (hop : e.op = .ret) (hv : e.value = some v) :
    s.sideEffect e = s.setPc v := by
  simp [State.sideEffect, hop, retireRet, hv]

/-- Settles O29: the side effect is the count of the branch, the rest is the frame of a retirement. -/
theorem commitBeqNotTaken : Obligations.CommitBeqNotTaken := by
  intro s e hready hop hd hout
  have hkeep : ¬ e.mispredicted := fun ⟨_, htaken⟩ => by simp [hout] at htaken
  have hside := s.headCommitted.sideEffect_of_beq_not_taken hop (by simp [hout])
  obtain ⟨hx, hmem, hpc, -, hbranches, hmispred, -⟩ := s.retire_of_sideEffect e
  rw [hside] at hx hmem hpc hbranches hmispred
  rw [State.commit_of_ready hready]
  exact ⟨hbranches, hmispred, hx, hmem, s.stat_retire_of_no_register hkeep (by simp [hd]), hpc,
    s.retire_headRetired hkeep⟩

/-- Settles O31: the side effect is the write of `pc`, the rest is the frame of a retirement. -/
theorem commitRetRedirects : Obligations.CommitRetRedirects := by
  intro s e v hready hop hd hv
  have hkeep : ¬ e.mispredicted := fun ⟨hbeq, _⟩ => by simp [hop] at hbeq
  have hside := s.headCommitted.sideEffect_of_ret hop hv
  obtain ⟨hx, hmem, hpc, -, hbranches, hmispred, -⟩ := s.retire_of_sideEffect e
  rw [hside] at hx hmem hpc hbranches hmispred
  rw [State.commit_of_ready hready]
  exact ⟨hpc, hbranches, hmispred, hx, hmem, s.stat_retire_of_no_register hkeep (by simp [hd]),
    s.retire_headRetired hkeep⟩

/-! ## The `pc` Commit leaves (R170, R195, R212) -/

/-- A ready head leaves `pc` as its side effect does. -/
theorem State.commit_pc_of_ready {s : State} {e : RobEntry} (h : s.readyHead = some e) :
    s.commit.pc = (s.headCommitted.sideEffect e).pc := by
  obtain ⟨-, -, hpc, -⟩ := s.retire_of_sideEffect e
  rw [State.commit_of_ready h, hpc]

/-- A head that is a taken `BEQ` sends `pc` to the target of the `BEQ` it was issued from (R121, R212). -/
theorem QueueInv.commit_pc_of_mispredicted {s : State} (hq : QueueInv s) {e : RobEntry} (hready : s.readyHead = some e)
    (hm : e.mispredicted) : ∃ rA rB, s.cfg.instrAt e.idx.toNat = some (.beq rA rB s.commit.pc) := by
  obtain ⟨-, he, -⟩ := (s.readyHead_eq_some e).mp hready
  obtain ⟨i, hi⟩ := hq.owner he
  have hop := hi.opcode.trans hm.1
  cases i with
  | beq rA rB target =>
    rw [State.commit_pc_of_ready hready, s.headCommitted.sideEffect_pc_mispredicted hm hi.instrAt]
    exact ⟨rA, rB, hi.instrAt⟩
  | _ => cases hop

/-- A head that is a `RET` sends `pc` to the value it carries (R123). -/
theorem State.commit_pc_of_ret {s : State} {e : RobEntry} (hready : s.readyHead = some e) (hop : e.op = .ret) :
    e.value = some s.commit.pc := by
  obtain ⟨-, -, -, hval⟩ := (s.readyHead_eq_some e).mp hready
  obtain ⟨v, hv⟩ := Option.isSome_iff_exists.mp hval
  rw [State.commit_pc_of_ready hready, s.headCommitted.sideEffect_of_ret hop hv, hv]
  rfl

/-- Without a taken `BEQ` or a `RET` at the head, Commit keeps `pc` (R196). -/
theorem State.commit_pc_of_no_redirect {s : State}
    (h : ∀ e, s.readyHead = some e → e.op ≠ .ret ∧ ¬ e.mispredicted) : s.commit.pc = s.pc := by
  cases hready : s.readyHead with
  | none => rw [State.commit_of_not_ready hready]
  | some e =>
    obtain ⟨hret, hm⟩ := h e hready
    rw [State.commit_pc_of_ready hready, s.headCommitted.sideEffect_pc hm hret]
    rfl

/-- Arbitration and Execute leave `pc` as Commit does, so that this is the `pc` Issue reads (R226). -/
theorem State.beforeIssue_pc (s : State) :
    s.beforeIssue.pc = (State.commit { s with cycle := s.cycle + 1 }).pc := by
  obtain ⟨-, -, -, hexecute, -⟩ := (State.commit { s with cycle := s.cycle + 1 }).writeArbitrate.execute_frame
  obtain ⟨-, -, -, harbitrate, -⟩ := (State.commit { s with cycle := s.cycle + 1 }).writeArbitrate_frame
  exact hexecute.trans harbitrate

/-! ## The `pc` Issue leaves (R184) -/

/-- The next `pc` of every instruction but a `CALL` is the next index. -/
theorem fetchedNext_of_not_call {i : Instr} (h : ∀ target, i ≠ .call target) (pc : Word) :
    Instr.fetchedNext i pc = pc + 1 := by
  cases i with
  | call target => exact absurd rfl (h target)
  | _ => rfl

/-- Issue keeps `pc` and issues nothing, or it issues and `pc` is the request's next one. -/
theorem State.issue_pc_cases (s : State) (q : IssueRequest) :
    ((s.issue q).nseq = s.nseq ∧ (s.issue q).pc = s.pc) ∨
      ((s.issue q).nseq = s.nseq + 1 ∧ (s.issue q).pc = q.nextPC) := by
  rcases s.issue_cases q with ⟨h, -⟩ | ⟨k, -, -, -, h⟩ <;> rw [h]
  · exact .inl ⟨rfl, rfl⟩
  · exact .inr ⟨rfl, rfl⟩

/-- What follows Issue writes neither `nseq` nor `pc`. -/
theorem State.afterIssue_pc (s : State) : s.afterIssue.nseq = s.nseq ∧ s.afterIssue.pc = s.pc := by
  obtain ⟨-, -, -, hpc, -, -, -, -, -, -, -, hnseq, -⟩ := s.writeDeliver_frame
  rw [State.afterIssue]
  rcases s.writeDeliver.runControl_cases with ⟨-, h⟩ | ⟨-, -, h⟩ | ⟨-, -, h⟩ <;> rw [h] <;> exact ⟨hnseq, hpc⟩

/-- A tick issues nothing and leaves `pc` as Commit did, or it issues the instruction there and goes on where Issue
predicts (R184, R227). -/
theorem step_pc_cases {s t : State} (hrun : s.run = true) (h : step s = .next t) :
    (t.nseq = s.nseq ∧ t.pc = s.beforeIssue.pc) ∨
      (t.nseq = s.nseq + 1 ∧ ∃ i, s.cfg.instrAt s.beforeIssue.pc.toNat = some i ∧
        t.pc = Instr.fetchedNext i s.beforeIssue.pc) := by
  obtain ⟨hcfg, -, hnseq, -⟩ := s.beforeIssue_frame
  rcases step_cases h with ⟨hstopped, -⟩ | ⟨-, -, ⟨-, ht⟩ | ⟨i, -, hi, ht⟩⟩
  · simp [hrun] at hstopped
  · obtain ⟨hnseq', hpc'⟩ := s.beforeIssue.afterIssue_pc
    exact .inl ⟨ht ▸ hnseq'.trans hnseq, ht ▸ hpc'⟩
  · obtain ⟨hnseq', hpc'⟩ := (s.beforeIssue.issue (requestOf s.beforeIssue i)).afterIssue_pc
    rw [← ht] at hnseq' hpc'
    rw [hnseq', hpc', ← hnseq, ← hcfg]
    rcases s.beforeIssue.issue_pc_cases (requestOf s.beforeIssue i) with hkept | ⟨hcount, hnext⟩
    · exact .inl hkept
    · exact .inr ⟨hcount, i, hi, hnext.trans (requestOf_nextPC _ i)⟩

/-- Settles O37: the first three clauses say what `pc` Commit leaves, in the tick's own cycle, the last two what Issue
makes of it. -/
theorem pcWritesInOrder : Obligations.PcWritesInOrder := by
  intro s t hrun hst
  have hinv : Inv s := by
    rcases step_cases hst with ⟨hstopped, -⟩ | ⟨-, hinv, -⟩
    · simp [hrun] at hstopped
    · exact hinv
  have hnext : Inv { s with cycle := s.cycle + 1 } := hinv.congr_control rfl
  refine ⟨fun e hready hop hout => ?_, fun e hready hop => ?_, fun hnone => ?_, ?_⟩
  · rw [s.beforeIssue_pc]
    exact hnext.tick.queue.commit_pc_of_mispredicted hready ⟨hop, hout⟩
  · rw [s.beforeIssue_pc]
    exact State.commit_pc_of_ret hready hop
  · rw [s.beforeIssue_pc]
    exact State.commit_pc_of_no_redirect fun e hready => (hnone e hready).imp_right fun hbeq hm => hbeq hm.1 hm.2
  rcases step_pc_cases hrun hst with ⟨hnseq, hpc⟩ | ⟨hnseq, i, hi, hpc⟩
  · exact ⟨fun _ => hpc, fun hissued => by omega⟩
  · refine ⟨fun hkept => by omega, fun _ => ⟨i, hi, fun target hcall => ?_, fun hother => ?_⟩⟩
    · rw [hpc, hcall]
      rfl
    · rw [hpc, fetchedNext_of_not_call hother]

end Sys2Proof.Machine
end

section
/-! Operand capture, the snoop of delivery, and the tags of reached states (43_rs_pool.md R133, R135,
45_pipeline_driver.md R193, 10_state.md R45). -/

namespace Sys2Proof.Machine

/-! ## The tags (R45) -/

/-- An entry without a value is Issued or Executing (R33). -/
theorem EntryInv.phase_of_value_eq_none {s : State} {p : Nat} {e : RobEntry} (h : EntryInv s p e)
    (hv : e.value = none) : e.phase = .issued ∨ e.phase = .executing := by
  have hnotWritten : e.phase ≠ .written := fun hw => by simpa [hv] using h.writtenIffReady.mp hw
  cases hp : e.phase with
  | issued => exact .inl rfl
  | executing => exact .inr rfl
  | written => exact absurd hp hnotWritten
  | committed => exact absurd hp h.notCommitted

/-- Settles O55: a tag names an older entry without a value, an entry is there only in flight, and one without a value
is not Written. -/
theorem tagsNameOlderUndelivered : Obligations.TagsNameOlderUndelivered := by
  intro c t ht cl k st q hst hwaits
  have hstation := ht.inv.stations cl k st hst
  obtain ⟨e, he, hage, hv⟩ : ∃ e, t.entry q = some e ∧ t.age q < t.age st.rob ∧ e.value = none :=
    hwaits.elim (hstation.tagJ q) (hstation.tagK q)
  exact ⟨(ht.inv.tick.queue.occupied q).mp ⟨e, he⟩, hage, e, he, (ht.inv.entries q e he).phase_of_value_eq_none hv⟩

/-! ## Operand capture (R133) -/

/-- A producer whose result is there gives its value. -/
theorem State.capture_of_ready (s : State) {r : Reg} {p : Nat} {e : RobEntry} {v : Word} (hr : r ≠ 0)
    (hs : s.stat.get r = some p) (he : s.entry p = some e) (hv : e.value = some v) : s.capture r = .value v := by
  simp [State.capture, hr, hs, he, hv]

/-- Settles O18: the four clauses are the four branches of `capture`. -/
theorem captureByRenameTable : Obligations.CaptureByRenameTable := by
  intro s
  refine ⟨s.capture_zero, fun r hr hs => s.capture_of_unmapped hs hr,
    fun r p e v hr hs he hv => s.capture_of_ready hr hs he hv, fun r p e hr hs he hv => ?_⟩
  exact (s.capture_eq_waits r p).mpr ⟨hr, hs, by simp [he, hv]⟩

/-! ## Delivery (R135, R193) -/

/-- The snoop fills exactly the slots that wait on the message's producer. -/
theorem Operand.snoop_eq_ite (o : Operand) (p : Nat) (v : Word) :
    o.snoop p v = if o = .waits p then .value v else o := by
  cases o with
  | value w => simp [Operand.snoop]
  | waits q => simp [Operand.snoop]

/-- Settles O26: the slots, the stations and the rest of the state are each read off delivery's law for them. -/
theorem deliveryFillsWaiters : Obligations.DeliveryFillsWaiters := by
  intro s m e hcdb he
  obtain ⟨-, hx, hmem, hpc, -, -, hstat, -, -, -, -, -, -, -, htrace, hempty⟩ := s.writeDeliver_frame
  have hentry := s.entry_writeDeliver hcdb
  have hstation := s.station_writeDeliver hcdb
  refine ⟨⟨e.deliver m, by simp [hentry, he], rfl, rfl, rfl, rfl, rfl, rfl, fun h => if_pos h, fun h => if_neg h,
      fun h => if_pos h, fun h => if_neg h⟩, fun p hp => by rw [hentry, if_neg hp],
    fun c k hnone => by rw [hstation, hnone]; rfl, fun c k st hst => ?_,
    hempty, hx, hmem, hstat, hpc, htrace⟩
  rw [hstation, hst, Option.map_some, Station.snoop, Operand.snoop_eq_ite, Operand.snoop_eq_ite]

end Sys2Proof.Machine
end

section
/-! The reorder buffer at work: a head that is not ready holds Commit, an older store holds a load, and a buffer of one
slot holds every instruction (44_rob.md R151 to R155, 41_loadstore.md R188, 45_pipeline_driver.md R180, R195). -/

namespace Sys2Proof.Machine

/-! ## The head (R154, R195) -/

/-- What it says that no head is ready to commit: the complement of `State.readyHead_eq_some`. -/
theorem State.readyHead_eq_none (s : State) :
    s.readyHead = none ↔
      s.head = s.tail ∨ ∀ e, s.entry s.head = some e → e.phase ≠ .written ∨ e.value = none := by
  simp only [Option.eq_none_iff_forall_ne_some, ne_eq, s.readyHead_eq_some, Option.isSome_iff_ne_none]
  constructor
  · intro h
    by_cases hindices : s.head = s.tail
    · exact .inl hindices
    · exact .inr fun e he => by
        by_contra hdone
        exact h e ⟨hindices, he, (not_or.mp hdone).imp_left not_not.mp⟩
  · rintro (hindices | hwaits) e ⟨hne, he, hphase, hval⟩
    · exact hne hindices
    · exact (hwaits e he).elim (· hphase) hval

/-- Settles O32: a head that is not ready leaves Commit nothing to retire. -/
theorem commitWaitsForHead : Obligations.CommitWaitsForHead := fun s h =>
  State.commit_of_not_ready (s.readyHead_eq_none.mpr h)

/-! ## Memory disambiguation (R155, R188) -/

/-- An entry holds back a load exactly when it is a `STORE` with no known address but that of the load. -/
theorem RobEntry.holdsLoad_iff (e : RobEntry) (ea : Word) :
    e.holdsLoad ea = true ↔ e.op = .store ∧ ∀ a, e.dest = .memory (some a) → a = ea := by
  rw [RobEntry.holdsLoad, Bool.and_eq_true, beq_iff_eq]
  refine and_congr_right fun _ => ?_
  split
  next a hd => simp [hd]
  next hd => exact ⟨fun _ a ha => absurd ha (hd a), fun _ => rfl⟩

/-- The slots the disambiguation test looks at are those older than the load's own. -/
theorem State.loadBlocked_eq_any (s : State) (p : Nat) (ea : Word) :
    s.loadBlocked p ea = (s.olderThan p).any fun q => (s.entry q).any fun e => e.holdsLoad ea := rfl

/-- Settles O22: the slots tested are those in flight and older than the load, by `State.mem_olderThan`. -/
theorem loadBlockedExactly : Obligations.LoadBlockedExactly := by
  intro s p ea hh
  simp only [State.loadBlocked_eq_any, List.any_eq_true, s.mem_olderThan hh, Option.any_eq_true,
    RobEntry.holdsLoad_iff]
  constructor
  · rintro ⟨q, ⟨hq, hage⟩, e, he, hop, hdest⟩
    exact ⟨q, e, hq, hage, he, hop, hdest⟩
  · rintro ⟨q, e, hq, hage, he, hop, hdest⟩
    exact ⟨q, ⟨hq, hage⟩, e, he, hop, hdest⟩

/-! ## A buffer of one slot (R151, R152, R153, R180) -/

/-- With nothing in flight the tick up to Issue only counts the cycle (R170). -/
theorem Emptied.beforeIssue {s : State} (h : Emptied s) : s.beforeIssue = { s with cycle := s.cycle + 1 } := by
  have hnext : Emptied { s with cycle := s.cycle + 1 } := ⟨h.indices, h.entry, h.station, h.stat⟩
  rw [State.beforeIssue, State.commit_of_not_ready ((State.readyHead_eq_none _).mpr (.inl hnext.indices)),
    hnext.writeArbitrate, State.execute_of_idle hnext.station]

/-- A buffer of one slot is empty and full at once, its indices being slots (R151, R153). -/
theorem Inv.empty_and_full_of_sizeOne {s : State} (h : Inv s) (hsize : s.n = 1) :
    s.head = s.tail ∧ s.robFull = true := by
  have hhead : s.head = 0 := by
    have := h.headLt
    omega
  have htail : s.tail = 0 := by
    have := h.tailLt
    omega
  exact ⟨hhead.trans htail.symm, by simp [State.robFull, hsize, hhead, Nat.mod_one]⟩

theorem State.issue_of_full {s : State} (h : s.robFull = true) (q : IssueRequest) : s.issue q = s := by
  rcases s.issue_cases q with ⟨hs, -⟩ | ⟨k, -, hfull, -⟩
  · exact hs
  · simp [h] at hfull

/-- With the latch empty and `pc` inside the program the end of the tick only tests the budget (R229, R230). -/
theorem State.afterIssue_of_inside {s : State} (hcdb : s.cdb = none) (hpc : s.pc < s.cfg.progLen) :
    s.afterIssue = s ∨ s.afterIssue = s.stop .budgetExceeded := by
  rw [State.afterIssue, State.writeDeliver_of_empty hcdb]
  rcases s.runControl_cases with ⟨hdone, -⟩ | ⟨-, -, hr⟩ | ⟨-, -, hr⟩
  · exact absurd hpc (BitVec.not_lt.mpr (s.done_iff.mp hdone).1)
  · exact .inr hr
  · exact .inl hr

/-- With one slot, and `pc` inside the program, a tick counts the cycle and tests the budget, and that is all (R153). -/
theorem step_of_sizeOne {s t : State} (hsize : s.n = 1) (hpc : s.pc < s.cfg.progLen) (h : step s = .next t) :
    (s.run = false ∧ t = s) ∨
      (s.run = true ∧
        (t = { s with cycle := s.cycle + 1 } ∨ t = State.stop { s with cycle := s.cycle + 1 } .budgetExceeded)) := by
  rcases step_cases h with hstopped | ⟨hrun, hinv, htick⟩
  · exact .inl hstopped
  · obtain ⟨hempty, hfull⟩ := hinv.empty_and_full_of_sizeOne hsize
    rw [(hinv.tick.emptied hempty).beforeIssue] at htick
    rcases htick with ⟨hpast, -⟩ | ⟨i, -, -, ht⟩
    · exact absurd hpc (BitVec.not_lt.mpr hpast)
    · rw [State.issue_of_full (s := { s with cycle := s.cycle + 1 }) hfull] at ht
      subst ht
      exact .inr ⟨hrun, State.afterIssue_of_inside hinv.latchEmpty hpc⟩

/-- The engine has done nothing since its start but count cycles, up to the end of its budget. -/
structure OnlyCounted (c : Config) (s : State) : Prop where
  start : s = { State.initial c with cycle := s.cycle, run := s.run, status := s.status }
  ended : s.run = false → s.status = .budgetExceeded

namespace OnlyCounted
variable {c : Config} {s t : State}

theorem of_started (hc : startCheck c = none) : OnlyCounted c (State.started c) := by
  rw [started_of_check hc]
  exact ⟨rfl, fun hrun => by cases hrun⟩

theorem step (h : OnlyCounted c s) (hsize : c.robSize = 1) (hpc : c.startPC < c.progLen)
    (hst : Machine.step s = .next t) : OnlyCounted c t := by
  have hsize' : s.n = 1 := by rw [h.start]; exact hsize
  have hpc' : s.pc < s.cfg.progLen := by rw [h.start]; exact hpc
  rcases step_of_sizeOne hsize' hpc' hst with ⟨-, rfl⟩ | ⟨hrun, rfl | rfl⟩
  · exact h
  · exact ⟨by rw [h.start], fun hstopped => by simp [hrun] at hstopped⟩
  · exact ⟨by rw [h.start]; rfl, fun _ => rfl⟩

end OnlyCounted

/-- Settles O46: every step of a run with one slot only counts a cycle, so each part of the start but `cycle`, `run` and
`STATUS` is still there. -/
theorem sizeOneBufferNeverIssues : Obligations.SizeOneBufferNeverIssues := by
  intro c t hsize hpc ht
  have hcounted : OnlyCounted c t :=
    reached_keeps OnlyCounted.of_started (fun s u hs hst => hs.step hsize hpc hst) ht
  exact ⟨by rw [hcounted.start]; rfl, by rw [hcounted.start]; rfl, by rw [hcounted.start]; rfl, hcounted.ended⟩

end Sys2Proof.Machine
end

section
/-! Execute: the result table, what one visit does, and that no visit of a tick changes what the visit of another station
reads (45_pipeline_driver.md R186 to R189). -/

namespace Sys2Proof.Machine

/-! ## The result table (R189) -/

/-- Settles O19: the row of each opcode, the sums and the product on 16 bits being those of `BitVec`. -/
theorem resultTable : Obligations.ResultTable := by
  intro st vj vk mem
  refine ⟨fun hop => ?_, fun hop => ?_, fun hop => ?_, fun hop => ?_, fun hop => ?_, fun hop => ?_, fun hop heq => ?_,
    fun hop hne => ?_, fun hop => ?_, fun hop => ?_⟩ <;> rw [Station.evaluate, hop]
  case refine_7 => simp [resultBeq, equalWord, heq]
  case refine_8 => simp [resultBeq, equalWord, hne]
  all_goals rfl

/-! ## One visit (R186, R187) -/

/-- The disambiguation test holds back exactly the blocked loads (R188). -/
theorem State.heldBack_iff (s : State) (st : Station) (vj : Word) :
    s.heldBack st vj = true ↔ st.op = .load ∧ s.loadBlocked st.rob (vj + st.imm) = true := by
  simp [State.heldBack, effectiveAddress]

/-- A station with both operands and cycles left is counted down, beginning first where it has not begun. -/
theorem State.visit_of_passing {s : State} {c : Opcode} {k : Nat} {st : Station} {vj vk : Word}
    (hst : s.station c k = some st) (hj : st.j = .value vj) (hk : st.k = .value vk) (hleft : st.left ≠ 0)
    (hpass : st.started = true ∨ s.heldBack st vj = false) :
    s.visit (c, k) = if st.started then s.countDown c k st vj vk else (s.beginExecution st).countDown c k st vj vk := by
  have hvisit : s.visit (c, k) = s.visitReady c k st vj vk := by simp [State.visit, hst, hj, hk, hleft]
  rw [hvisit, State.visitReady]
  cases hs : st.started with
  | true => rfl
  | false =>
    have hfree : s.heldBack st vj = false := hpass.resolve_left (by simp [hs])
    simp [hfree]

/-- `t` is `s` after a visit advanced the station `k` of class `c`, in whatever phase its entry was. -/
structure Advances (s t : State) (c : Opcode) (k : Nat) (st : Station) (vj vk : Word) : Prop where
  station : ∀ d l, t.station d l = if d = c ∧ l = k then some (st.advanced vj vk s.mem) else s.station d l
  entry : ∀ p, t.entry p = if p = st.rob ∧ st.started = false then (s.entry p).map RobEntry.executing else s.entry p
  trace : ∀ e, s.entry st.rob = some e → t.trace = s.trace.modify e.seq (Record.visited st s.cycle)

theorem State.visit_advances {s : State} {c : Opcode} {k : Nat} {st : Station} {vj vk : Word}
    (hst : s.station c k = some st) (hj : st.j = .value vj) (hk : st.k = .value vk) (hleft : st.left ≠ 0)
    (hpass : st.started = true ∨ s.heldBack st vj = false) : Advances s (s.visit (c, k)) c k st vj vk := by
  have hstation : ∀ {t : State}, t.rs = (s.setStation c k (some (st.advanced vj vk s.mem))).rs → ∀ d l,
      t.station d l = if d = c ∧ l = k then some (st.advanced vj vk s.mem) else s.station d l := fun hrs d l => by
    rw [State.station_congr hrs, State.station_setStation]
    simp [s.station_lt hst]
  rw [State.visit_of_passing hst hj hk hleft hpass]
  cases hs : st.started with
  | true =>
    obtain ⟨-, -, -, -, hrob, -⟩ := s.countDown_frame c k st vj vk
    exact
      { station := hstation (s.rs_countDown c k st vj vk)
        entry := fun p => by simp [hs, State.entry_congr hrob]
        trace := fun e he => (State.trace_visited he c k vj vk).1 hs }
  | false =>
    obtain ⟨-, -, -, -, hrob, -⟩ := (s.beginExecution st).countDown_frame c k st vj vk
    refine
      { station := hstation ?_
        entry := fun p => by simp [hs, State.entry_congr hrob, State.entry_beginExecution]
        trace := fun e he => (State.trace_visited he c k vj vk).2 hs }
    rw [if_neg (by decide), State.rs_countDown, State.setStation_rs, State.setStation_rs]
    simp

/-- Settles O20: the station, the slots and the trace are read off `Advances`, the rest is the frame of a visit. -/
theorem visitAdvancesStation : Obligations.VisitAdvancesStation := by
  intro s c k st vj vk e r hst hj hk hleft hbegun he hr
  have hpass : st.started = true ∨ s.heldBack st vj = false := hbegun.imp_right fun hfree => by
    rwa [← Bool.not_eq_true, s.heldBack_iff]
  have hadv := State.visit_advances hst hj hk (Nat.pos_iff_ne_zero.mp hleft) hpass
  have htrace := hadv.trace e he
  obtain ⟨hcfg, hx, hmem, hpc, hhead, htail, hstat, hrest⟩ := s.visit_frame (c, k)
  refine ⟨?_, fun c' k' hne => ?_, ?_, fun p hp => ?_, ?_, fun n hn => ?_, hx, hmem, hpc, hstat, hhead, htail, hcfg,
    hrest⟩
  · rw [hadv.station, if_pos ⟨rfl, rfl⟩, Station.advanced]
  · rw [hadv.station, if_neg hne]
  · rw [hadv.entry, he]
    cases st.started <;> simp [RobEntry.executing]
  · rw [hadv.entry, if_neg fun hrob => hp hrob.1]
  · rw [htrace, getElem?_modify_same, hr, Option.map_some, Record.visited]
  · rw [htrace, getElem?_modify_other _ _ hn]

/-- Settles O21: a station that a visit advances has both operands, is not at 0, and has begun or is not held back. -/
theorem visitSkipsStation : Obligations.VisitSkipsStation := by
  rintro s c k st hst (⟨q, hwaits⟩ | hzero | ⟨vj, hj, hs, hop, hblocked⟩)
  · rcases s.visit_cases c k with h | ⟨st', vj, vk, hst', hj, hk, -⟩
    · exact h
    · cases hst.symm.trans hst'
      simp [hj, hk] at hwaits
  · rcases s.visit_cases c k with h | ⟨st', vj, vk, hst', -, -, hleft, -⟩
    · exact h
    · cases hst.symm.trans hst'
      exact absurd hzero hleft
  · exact State.visit_of_heldBack hst hj hs ((s.heldBack_iff st vj).mpr ⟨hop, hblocked⟩)

/-! ## All the visits of a tick (R186) -/

/-- What the visit of a busy station leaves in its place. -/
def State.afterVisit (s : State) (st : Station) : Station :=
  match st.j, st.k with
  | .value vj, .value vk =>
    if st.left = 0 ∨ st.started = false ∧ s.heldBack st vj = true then st else st.advanced vj vk s.mem
  | _, _ => st

/-- The visit of a busy station does nothing, or it advances the station (R186). -/
theorem State.visit_of_busy {s : State} {c : Opcode} {k : Nat} {st : Station} (hst : s.station c k = some st) :
    (s.visit (c, k) = s ∧ s.afterVisit st = st) ∨
      ∃ vj vk, Advances s (s.visit (c, k)) c k st vj vk ∧ s.afterVisit st = st.advanced vj vk s.mem := by
  cases hj : st.j with
  | waits q => exact .inl ⟨visitSkipsStation s c k st hst (.inl ⟨q, .inl hj⟩), by simp [State.afterVisit, hj]⟩
  | value vj =>
    cases hk : st.k with
    | waits q => exact .inl ⟨visitSkipsStation s c k st hst (.inl ⟨q, .inr hk⟩), by simp [State.afterVisit, hk]⟩
    | value vk =>
      by_cases hstays : st.left = 0 ∨ st.started = false ∧ s.heldBack st vj = true
      · refine .inl ⟨?_, by simp [State.afterVisit, hj, hk, hstays]⟩
        rcases hstays with hzero | ⟨hs, hheld⟩
        · exact visitSkipsStation s c k st hst (.inr (.inl hzero))
        · exact State.visit_of_heldBack hst hj hs hheld
      · obtain ⟨hleft, hpass⟩ := not_or.mp hstays
        refine .inr ⟨vj, vk, State.visit_advances hst hj hk hleft ?_, by simp [State.afterVisit, hj, hk, hstays]⟩
        simpa only [not_and_or, Bool.not_eq_false, Bool.not_eq_true] using hpass

theorem State.station_visit_same (s : State) (c : Opcode) (k : Nat) :
    (s.visit (c, k)).station c k = (s.station c k).map s.afterVisit := by
  cases hst : s.station c k with
  | none => rw [State.visit_of_idle hst, hst, Option.map_none]
  | some st =>
    rcases State.visit_of_busy hst with ⟨hvisit, hafter⟩ | ⟨vj, vk, hadv, hafter⟩
    · rw [hvisit, hst, Option.map_some, hafter]
    · rw [hadv.station, if_pos ⟨rfl, rfl⟩, Option.map_some, hafter]

/-- A visit writes no station but its own. -/
theorem State.station_visit_other (s : State) {c d : Opcode} {k l : Nat} (hne : ¬(d = c ∧ l = k)) :
    (s.visit (c, k)).station d l = s.station d l := by
  cases hst : s.station c k with
  | none => rw [State.visit_of_idle hst]
  | some st =>
    rcases State.visit_of_busy hst with ⟨hvisit, -⟩ | ⟨vj, vk, hadv, -⟩
    · rw [hvisit]
    · rw [hadv.station, if_neg hne]

/-- A visit keeps every entry, but for the phase of the one that begins. -/
theorem State.entry_visit (s : State) (id : Opcode × Nat) (p : Nat) :
    (s.visit id).entry p = s.entry p ∨ (s.visit id).entry p = (s.entry p).map RobEntry.executing := by
  obtain ⟨c, k⟩ := id
  rcases s.visit_cases c k with h | ⟨st, vj, vk, hst, hj, hk, hleft, hbegun⟩
  · exact .inl (by rw [h])
  · have hadv := State.visit_advances hst hj hk hleft (hbegun.imp And.left fun h => h.2.1)
    rw [hadv.entry]
    split
    next => exact .inr rfl
    next => exact .inl rfl

/-- The disambiguation test reads no phase, so no visit changes its answer (R188). -/
theorem State.heldBack_visit (s : State) (id : Opcode × Nat) (st : Station) (vj : Word) :
    (s.visit id).heldBack st vj = s.heldBack st vj := by
  obtain ⟨hcfg, -, -, -, hhead, htail, -⟩ := s.visit_frame id
  have holder : (s.visit id).olderThan st.rob = s.olderThan st.rob := by
    simp only [State.olderThan, State.inFlight_congr hcfg hhead htail, State.age_congr hcfg hhead]
  have hstore : ∀ ea q, ((s.visit id).entry q).any (RobEntry.holdsLoad · ea) =
      (s.entry q).any (RobEntry.holdsLoad · ea) := fun ea q => by
    rcases s.entry_visit id q with h | h
    · rw [h]
    · rw [h, Option.any_map]
      rfl
  simp only [State.heldBack, State.loadBlocked_eq_any, holder, hstore]

theorem State.afterVisit_visit (s : State) (id : Opcode × Nat) : (s.visit id).afterVisit = s.afterVisit := by
  obtain ⟨-, -, hmem, -⟩ := s.visit_frame id
  funext st
  simp only [State.afterVisit, s.heldBack_visit, hmem]

/-- Visits of different stations, in whatever order. -/
theorem State.station_foldl_visit (l : List (Opcode × Nat)) (hl : l.Nodup) (s : State) (c : Opcode) (k : Nat) :
    (l.foldl State.visit s).station c k =
      if (c, k) ∈ l then (s.station c k).map s.afterVisit else s.station c k := by
  induction l generalizing s with
  | nil => rfl
  | cons id rest ih =>
    obtain ⟨hid, hrest⟩ := List.nodup_cons.mp hl
    obtain ⟨d, n⟩ := id
    rw [List.foldl_cons, ih hrest, s.afterVisit_visit]
    by_cases heq : c = d ∧ k = n
    · obtain ⟨rfl, rfl⟩ := heq
      simp [hid, s.station_visit_same]
    · simp [s.station_visit_other heq, heq]

/-- Settles O23: no visit writes another station nor what the visit of another station reads. -/
theorem visitsAreIndependent : Obligations.VisitsAreIndependent := by
  intro s c k
  rw [State.execute, State.station_foldl_visit _ s.stationIds_nodup, s.station_visit_same]
  by_cases hin : (c, k) ∈ s.stationIds
  · simp [hin]
  · have hidle : s.station c k = none := Option.eq_none_iff_forall_ne_some.mpr fun st hst =>
      hin ((s.mem_stationIds c k).mpr (s.station_lt hst))
    simp [hidle]

end Sys2Proof.Machine
end

section
/-! Arbitration, the retirement of a taken BEQ, and the counters: what the remaining stages of a tick do
(45_pipeline_driver.md R191, R192, R195, R235, 46_rollback.md R211 to R216). -/

namespace Sys2Proof.Machine

/-! ## Arbitration (R191, R192) -/

/-- Where a station is result-ready, arbitration has a candidate to pick. -/
theorem State.exists_oldestCandidate {s : State} {c : Opcode} {k : Nat} {st : Station}
    (hst : s.station c k = some st) (hres : st.result ≠ none) : ∃ d, s.oldestCandidate = some d := by
  obtain ⟨r, hr⟩ := Option.ne_none_iff_exists'.mp hres
  refine Option.ne_none_iff_exists'.mp fun hnone => ?_
  have hmem : Candidate.mk c k st.rob r ∈ s.candidates := (s.mem_candidates _).mpr ⟨st, hst, hr, rfl⟩
  rw [s.oldestCandidate_spec.1.mp hnone] at hmem
  cases hmem

/-- The candidate that arbitration picks is strictly the oldest, no two stations having one entry (R192). -/
theorem TickInv.age_lt_of_oldest {s : State} (h : TickInv s) {d : Candidate} (hd : s.oldestCandidate = some d)
    {c : Opcode} {k : Nat} {st : Station} (hst : s.station c k = some st) (hres : st.result ≠ none)
    (hne : ¬(c = d.cls ∧ k = d.num)) : s.age d.rob < s.age st.rob := by
  obtain ⟨hmem, hleast⟩ := s.oldestCandidate_spec.2 d hd
  obtain ⟨r, hr⟩ := Option.ne_none_iff_exists'.mp hres
  obtain ⟨std, hstd, -, hrob⟩ := (s.mem_candidates d).mp hmem
  obtain ⟨e, he, -⟩ := h.entry_of_station hst
  obtain ⟨ed, hed, -⟩ := h.entry_of_station hstd
  have hle : s.age d.rob ≤ s.age st.rob := hleast ⟨c, k, st.rob, r⟩ ((s.mem_candidates _).mpr ⟨st, hst, hr, rfl⟩)
  refine Nat.lt_of_le_of_ne hle fun hage => hne (h.station_unique hstd hst ?_)
  rw [← hrob] at hage
  exact (s.age_inj h.queue.headLt (h.queue.slot_lt hed) (h.queue.slot_lt he) hage).symm

/-- Settles O24: the candidate picked is the oldest, and its message, its stamp and its release are arbitration's. -/
theorem arbitrationPicksOldest : Obligations.ArbitrationPicksOldest := by
  rintro s hinv ⟨c, k, st, hst, hres⟩
  obtain ⟨d, hd⟩ := State.exists_oldestCandidate hst hres
  obtain ⟨std, hstd, hresult, hrob⟩ := (s.mem_candidates d).mp (s.oldestCandidate_spec.2 d hd).1
  obtain ⟨e, he, -⟩ := hinv.tick.entry_of_station hstd
  obtain ⟨hcdb, -, htrace⟩ := State.writeArbitrate_of_candidate hd
  obtain ⟨-, hx, hmem, -, hslots, -⟩ := s.writeArbitrate_frame
  have hstation : ∀ c' k', s.writeArbitrate.station c' k' =
      if c' = d.cls ∧ k' = d.num then none else s.station c' k' := fun c' k' => by
    simp [s.station_writeArbitrate, hd]
  rw [← hrob, State.trace_stampEntry he] at htrace
  refine ⟨d.cls, d.num, std, d.result, e, hstd, hresult, he, fun c' k' st' hst' hres' hne => ?_, hrob ▸ hcdb, ?_,
    fun c' k' hne => ?_, fun rec hrec => ?_, fun n hn => ?_, hslots, hx, hmem⟩
  · exact hrob ▸ hinv.tick.age_lt_of_oldest hd hst' hres' hne
  · rw [hstation, if_pos ⟨rfl, rfl⟩]
  · rw [hstation, if_neg hne]
  · rw [htrace, getElem?_modify_same, hrec]
    rfl
  · rw [htrace, getElem?_modify_other _ _ hn]

/-! ## The counters (R235) -/

theorem State.mispredict_counters (s : State) (e : RobEntry) :
    (s.mispredict e).branches = s.branches ∧ (s.mispredict e).mispred = s.mispred + 1 := by
  obtain ⟨-, -, -, -, -, -, -, -, hbranches, hmispred, -⟩ :=
    State.squashYoungerThan_frame { s with mispred := s.mispred + 1 } s.head
  unfold State.mispredict
  cases s.branchTarget e.idx <;> exact ⟨hbranches, hmispred⟩

/-- A side effect counts a `BEQ`, and one that is taken as mispredicted too. -/
theorem State.sideEffect_counters (s : State) (e : RobEntry) :
    (s.sideEffect e).branches = s.branches + (if e.op = .beq then 1 else 0) ∧
      (s.sideEffect e).mispred = s.mispred + (if e.op = .beq ∧ e.outcome = some true then 1 else 0) := by
  by_cases hop : e.op = .beq
  · by_cases hout : e.outcome = some true
    · obtain ⟨hbranches, hmispred⟩ := State.mispredict_counters { s with branches := s.branches + 1 } e
      rw [s.sideEffect_mispredicted ⟨hop, hout⟩]
      simp [hbranches, hmispred, hop, hout]
    · rw [s.sideEffect_of_beq_not_taken hop hout]
      simp [hop, hout]
  · obtain ⟨-, -, -, -, -, -, -, -, -, hrest⟩ := s.sideEffect_frame e
    obtain ⟨-, -, -, -, hbranches, hmispred⟩ := hrest hop
    simp [hbranches, hmispred, hop]

/-- The counters of Commit: it retires a ready head, a `BEQ` is a branch, and a taken one a misprediction. -/
theorem State.commit_counters (s : State) :
    s.commit.cycle = s.cycle ∧
      s.commit.retired = s.retired + (if s.readyHead.isSome then 1 else 0) ∧
      s.commit.branches = s.branches + (if s.readyHead.any (fun e => e.op == .beq) then 1 else 0) ∧
      s.commit.mispred = s.mispred +
        (if s.readyHead.any (fun e => e.op == .beq && e.outcome == some true) then 1 else 0) := by
  cases hready : s.readyHead with
  | none =>
    rw [State.commit_of_not_ready hready]
    simp
  | some e =>
    obtain ⟨-, -, hcycle, -, -, -, hretired, -⟩ := s.retire_frame e
    obtain ⟨-, -, -, -, hbranches, hmispred, -⟩ := s.retire_of_sideEffect e
    obtain ⟨hbranches', hmispred'⟩ := s.headCommitted.sideEffect_counters e
    rw [State.commit_of_ready hready]
    refine ⟨hcycle, hretired, ?_, ?_⟩
    · simpa [State.headCommitted] using hbranches.trans hbranches'
    · simpa [State.headCommitted] using hmispred.trans hmispred'

/-- `t` has the counters of `s`, all but `nseq`. -/
structure SameCounters (s t : State) : Prop where
  cycle : t.cycle = s.cycle
  retired : t.retired = s.retired
  branches : t.branches = s.branches
  mispred : t.mispred = s.mispred

theorem SameCounters.trans {s t u : State} (h : SameCounters s t) (h' : SameCounters t u) : SameCounters s u :=
  ⟨h'.cycle.trans h.cycle, h'.retired.trans h.retired, h'.branches.trans h.branches, h'.mispred.trans h.mispred⟩

/-- After Commit nothing before Issue counts. -/
theorem State.beforeIssue_counters (s : State) :
    SameCounters (State.commit { s with cycle := s.cycle + 1 }) s.beforeIssue := by
  obtain ⟨-, -, -, -, -, -, -, -, hc, hr, hb, hm, -⟩ :=
    (State.commit { s with cycle := s.cycle + 1 }).writeArbitrate_frame
  obtain ⟨-, -, -, -, -, -, -, -, hc', hr', hb', hm', -⟩ :=
    (State.commit { s with cycle := s.cycle + 1 }).writeArbitrate.execute_frame
  exact .trans ⟨hc, hr, hb, hm⟩ ⟨hc', hr', hb', hm'⟩

theorem State.issue_counters (s : State) (q : IssueRequest) : SameCounters s (s.issue q) := by
  rcases s.issue_cases q with ⟨h, -⟩ | ⟨k, -, -, -, h⟩ <;> rw [h] <;> exact ⟨rfl, rfl, rfl, rfl⟩

theorem State.afterIssue_counters (s : State) : SameCounters s s.afterIssue := by
  obtain ⟨-, -, -, -, -, -, -, hc, hr, hb, hm, -⟩ := s.writeDeliver_frame
  rw [State.afterIssue]
  rcases s.writeDeliver.runControl_cases with ⟨-, h⟩ | ⟨-, -, h⟩ | ⟨-, -, h⟩ <;> rw [h] <;> exact ⟨hc, hr, hb, hm⟩

/-- In the tick of a running engine only Commit counts, besides the cycle. -/
theorem step_counters {s t : State} (hrun : s.run = true) (h : step s = .next t) :
    SameCounters (State.commit { s with cycle := s.cycle + 1 }) t := by
  refine s.beforeIssue_counters.trans ?_
  rcases step_cases h with ⟨hstopped, -⟩ | ⟨-, -, ⟨-, ht⟩ | ⟨i, -, -, ht⟩⟩
  · simp [hrun] at hstopped
  · rw [ht]
    exact s.beforeIssue.afterIssue_counters
  · rw [ht]
    exact (s.beforeIssue.issue_counters _).trans (State.afterIssue_counters _)

/-- Settles O36: the counters are those Commit leaves in the tick's own cycle, and `nseq` is Issue's. -/
theorem countersCount : Obligations.CountersCount := by
  intro s t hrun hst
  have hsame := step_counters hrun hst
  obtain ⟨hcycle, hretired, hbranches, hmispred⟩ := State.commit_counters { s with cycle := s.cycle + 1 }
  exact ⟨hsame.cycle.trans hcycle, hsame.retired.trans hretired, hsame.branches.trans hbranches,
    hsame.mispred.trans hmispred, (step_pc_cases hrun hst).imp And.left And.left⟩

/-! ## Commit of a taken `BEQ` (R195, R211 to R213, R216) -/

/-- Settles O30: the machine is emptied as `TickInv.emptied_of_mispredicted` says, and the rest is the frame of a
retirement with the side effect of a misprediction. -/
theorem commitBeqTakenEmptiesMachine : Obligations.CommitBeqTakenEmptiesMachine := by
  intro s e rA rB target hinv hready hop hout hi
  have hm : e.mispredicted := ⟨hop, hout⟩
  obtain ⟨-, he, -, hval⟩ := (s.readyHead_eq_some e).mp hready
  obtain ⟨hindices, hentry, hstation, hstat⟩ := hinv.tick.emptied_of_mispredicted he hval hm
  obtain ⟨hcfg, hcdb, hcycle, hnseq, hstatus, hrun, hretired, hhead⟩ := s.retire_frame e
  obtain ⟨hx, hmem, hpc, -⟩ := s.retire_of_sideEffect e
  obtain ⟨-, -, hbranches, hmispred⟩ := s.commit_counters
  obtain ⟨hx', hmem'⟩ := State.mispredict_frame { s.headCommitted with branches := s.headCommitted.branches + 1 } e
  rw [s.headCommitted.sideEffect_mispredicted hm] at hx hmem
  rw [State.commit_of_ready hready] at hbranches hmispred ⊢
  refine ⟨?_, by simpa [hready, hop] using hbranches, by simpa [hready, hop, hout] using hmispred, hretired, hindices,
    hhead, hentry, hstation, hstat, fun rec hrec => ?_, fun n hn => ?_, hx.trans hx', hmem.trans hmem', hnseq, hcycle,
    hcdb, hcfg, hstatus, hrun⟩
  · rw [hpc]
    exact s.headCommitted.sideEffect_pc_mispredicted hm hi
  · rw [s.trace_retire, getElem?_modify_same, hrec]
    rfl
  · rw [s.trace_retire, getElem?_modify_other _ _ hn]

end Sys2Proof.Machine
end

section
/-! The driver of the tick: the step around Issue, the stalls of Issue, and the stations of the reached states
(45_pipeline_driver.md R170, R180, R181, 10_state.md R44). -/

namespace Sys2Proof.Machine

/-! ## The step around Issue (R170, R180) -/

theorem Config.instrAt_of_decode {c : Config} {n : Nat} {w : Diw} {i : Instr} (hw : c.prog[n]? = some w)
    (hi : decode w = .ok i) : c.instrAt n = some i := by
  simp [Config.instrAt, decodeOption, hw, hi]

/-- Inside the program Issue runs the instruction at `pc`. -/
theorem State.fetchIssue_of_instr {s : State} {i : Instr} (hpc : s.pc < s.cfg.progLen)
    (hi : s.cfg.instrAt s.pc.toNat = some i) : s.fetchIssue = exec i s := by
  simp [State.fetchIssue, hpc, hi]

/-- Settles O5: the stages before Issue keep the configuration the word is fetched from, and `pc` as Commit leaves it. -/
theorem stepRunsDecodedInstruction : Obligations.StepRunsDecodedInstruction := by
  intro s w i hrun hinv hpc hw hi
  obtain ⟨hcfg, hcycle, hnseq, -⟩ := s.beforeIssue_frame
  have hstep : step s = finishTick (exec i s.beforeIssue) := by
    rw [step_running hrun hinv, State.fetchIssue_of_instr (hcfg.symm ▸ hpc)]
    exact Config.instrAt_of_decode (hcfg.symm ▸ hw) hi
  refine ⟨hstep, rfl, fun t ht => ?_, hcycle, hcfg, hnseq, fun hready => ?_⟩
  · rw [hstep, ht, finishTick_next, State.afterIssue]
  · rw [s.beforeIssue_pc, State.commit_of_not_ready (s := { s with cycle := s.cycle + 1 }) hready]

/-- Settles O6: past the program Issue leaves the state as it is, and what follows issues nothing. -/
theorem pastProgramNothingIssues : Obligations.PastProgramNothingIssues := by
  intro s hrun hinv hpc
  obtain ⟨hcfg, -, hnseq, -⟩ := s.beforeIssue_frame
  obtain ⟨hnseq', -⟩ := s.beforeIssue.afterIssue_pc
  refine ⟨?_, hnseq'.trans hnseq⟩
  rw [step_running hrun hinv, State.fetchIssue_of_past (hcfg.symm ▸ hpc), finishTick_next]

/-! ## The stalls of Issue (R180, R181, R257) -/

/-- Each of the three stalls leaves the state as it is. -/
theorem State.issue_of_stall {s : State} {q : IssueRequest}
    (h : s.retInFlight = true ∨ s.robFull = true ∨ s.tryAcquire q.op = none) : s.issue q = s := by
  rcases s.issue_cases q with ⟨hs, -⟩ | ⟨k, hret, hfull, hfree, -⟩
  · exact hs
  · simp [hret, hfull, hfree] at h

/-- Settles O17: the three conditions are the three stalls of Issue. -/
theorem issueStallsUnchanged : Obligations.IssueStallsUnchanged := by
  intro i s hstall
  rw [exec_eq, State.issue_of_stall]
  rcases hstall with ⟨p, hp, e, he, hop⟩ | hfull | hbusy
  · exact .inl (List.any_eq_true.mpr ⟨p, hp, by simp [State.opAt, he, hop]⟩)
  · exact .inr (.inl (beq_iff_eq.mpr hfull))
  · exact .inr (.inr ((requestOf_op s i).symm ▸ (s.tryAcquire_eq_none i.opcode).mpr hbusy))

/-! ## The stations of reached states (R44) -/

/-- An entry that is Issued or Executing has no value yet (R33). -/
theorem EntryInv.value_of_undelivered {s : State} {p : Nat} {e : RobEntry} (h : EntryInv s p e)
    (hphase : e.phase = .issued ∨ e.phase = .executing) : e.value = none :=
  h.value_eq_none fun hwritten => by simp [hwritten] at hphase

/-- Settles O54: a busy station's entry has no value, no entry has two stations, and one without a value has one. -/
theorem stationsMatchEntries : Obligations.StationsMatchEntries := by
  intro c t ht
  have htick := ht.inv.tick
  refine ⟨fun cl k st hst => ?_, fun cl k st cl' k' st' hst hst' hrob => ?_, fun p e he hphase => ?_⟩
  · obtain ⟨e, he, -, -, -, hv, hentry⟩ := htick.entry_of_station hst
    exact ⟨e, he, hentry.phase_of_value_eq_none hv⟩
  · exact htick.station_unique hst' hst hrob
  · have hone : t.stationsOf p = 1 := by
      rw [ht.inv.backlinks p e he, (ht.inv.entries p e he).value_of_undelivered hphase]
      rfl
    exact (t.stationsOf_pos p).mp (by omega)

end Sys2Proof.Machine
end

section
/-! The run loop: the tests after a tick, and the run of the empty program (47_pc_run_control.md R227 to R232). -/

namespace Sys2Proof.Machine

/-! ## The tests after a tick (R229, R230) -/

/-- The end of a run is not among the things `done` asks about. -/
theorem State.done_stop (s : State) (st : Status) : (s.stop st).done = s.done := rfl

theorem State.issue_control (s : State) (q : IssueRequest) :
    (s.issue q).run = s.run ∧ (s.issue q).status = s.status := by
  rcases s.issue_cases q with ⟨h, -⟩ | ⟨k, -, -, -, h⟩ <;> rw [h]
  · exact ⟨rfl, rfl⟩
  · exact ⟨s.allocate_run q k, s.allocate_status q k⟩

theorem State.writeDeliver_control (s : State) :
    s.writeDeliver.run = s.run ∧ s.writeDeliver.status = s.status := by
  obtain ⟨-, -, -, -, -, -, -, -, -, -, -, -, hstatus, hrun, -⟩ := s.writeDeliver_frame
  exact ⟨hrun, hstatus⟩

/-- A running tick is its stages, which touch neither `run` nor `STATUS`, and then the tests of the run loop. -/
theorem step_runControl {s t : State} (hrun : s.run = true) (h : step s = .next t) :
    ∃ u : State, u.run = true ∧ u.status = s.status ∧ t = u.runControl := by
  obtain ⟨-, -, -, hstatus, hrunning⟩ := s.beforeIssue_frame
  rcases step_cases h with ⟨hstopped, -⟩ | ⟨-, -, ⟨-, ht⟩ | ⟨i, -, -, ht⟩⟩
  · simp [hrun] at hstopped
  · obtain ⟨hrun', hstatus'⟩ := s.beforeIssue.writeDeliver_control
    exact ⟨_, hrun'.trans (hrunning.trans hrun), hstatus'.trans hstatus, ht⟩
  · obtain ⟨hrun', hstatus'⟩ := s.beforeIssue.issue_control (requestOf s.beforeIssue i)
    obtain ⟨hrun'', hstatus''⟩ := (s.beforeIssue.issue (requestOf s.beforeIssue i)).writeDeliver_control
    exact ⟨_, hrun''.trans (hrun'.trans (hrunning.trans hrun)), hstatus''.trans (hstatus'.trans hstatus), ht⟩

/-- Settles O39: the three outcomes of `runControl`, whose tests read the same in the state it leaves. -/
theorem runLoopTests : Obligations.RunLoopTests := by
  intro s t hrun hst
  obtain ⟨u, hrunning, hstatus, rfl⟩ := step_runControl hrun hst
  rw [← State.done_iff]
  rcases u.runControl_cases with ⟨hdone, hr⟩ | ⟨hdone, hover, hr⟩ | ⟨hdone, hleft, hr⟩ <;> rw [hr]
  · rw [u.done_stop, hdone]
    exact ⟨fun _ => ⟨rfl, rfl⟩, fun hnot => absurd rfl hnot⟩
  · rw [u.done_stop, hdone]
    exact ⟨nofun, fun _ => ⟨fun _ => ⟨rfl, rfl⟩, fun hleft => absurd hover (Nat.not_le.mpr hleft)⟩⟩
  · rw [hdone]
    exact ⟨nofun, fun _ => ⟨fun hover => absurd hover (Nat.not_le.mpr hleft), fun _ => ⟨hrunning, hstatus⟩⟩⟩

/-! ## A tick with nothing left to do (R227, R229, R231, R232) -/

/-- With the latch empty and nothing left to do the end of the tick ends the run. -/
theorem State.afterIssue_of_done {s : State} (hcdb : s.cdb = none) (hdone : s.done = true) :
    s.afterIssue = s.stop .doneOk := by
  rw [State.afterIssue, State.writeDeliver_of_empty hcdb, State.runControl, if_pos hdone]

/-- With nothing in flight and `pc` past the program, a tick counts its cycle and ends the run, whatever the budget. -/
theorem step_of_nothing_left {s : State} (hrun : s.run = true) (hinv : Inv s) (hempty : s.head = s.tail)
    (hpc : s.cfg.progLen ≤ s.pc) : step s = .next (State.stop { s with cycle := s.cycle + 1 } .doneOk) := by
  have hemptied := hinv.tick.emptied hempty
  have hbefore : s.beforeIssue = { s with cycle := s.cycle + 1 } := hemptied.beforeIssue
  have hdone : State.done { s with cycle := s.cycle + 1 } = true :=
    (State.done_iff _).mpr ⟨hpc, hemptied.station, hempty⟩
  obtain ⟨hstep, -⟩ := pastProgramNothingIssues s hrun hinv (hbefore ▸ hpc)
  rw [hstep, hbefore, State.afterIssue_of_done (s := { s with cycle := s.cycle + 1 }) hinv.latchEmpty hdone]

/-- Settles O45: the empty program starts with nothing left to do, since no `pc` is below `PROG_LEN` 0. -/
theorem emptyProgramEndsInOneCycle : Obligations.EmptyProgramEndsInOneCycle := by
  intro c hc hlen
  have hinv := invariantAtStart c hc
  rw [started_of_check hc] at hinv ⊢
  have hpc : c.progLen ≤ c.startPC := by
    rw [hlen]
    exact BitVec.le_def.mpr (Nat.zero_le _)
  refine ⟨_, step_of_nothing_left rfl hinv rfl hpc, rfl, rfl, rfl, rfl, rfl, rfl, fun hbudget => ?_⟩
  simp [Config.budget, hbudget, hlen]

end Sys2Proof.Machine
end

section
/-! The start checks in their order, the start request and the stopped engine (60_exceptions.md R252, R254, R259, R261,
R268, 70_reset_and_hazards.md R281, R282). -/

namespace Sys2Proof.Machine

/-- Settles O38. -/
theorem stoppedEngineIsStable : Obligations.StoppedEngineIsStable := fun _ => step_stopped

/-! ## The host's moves (R281, R282) -/

/-- A start whose checks fail leaves the state of R48 with the status of the check, not running. -/
theorem started_of_failed_check {c : Config} {st : Status} (h : startCheck c = some st) :
    State.started c = { State.initial c with status := st } := by
  simp [State.started, h]

theorem State.start?_of_stopped {s : State} (h : s.run = false) : s.start? = some (State.started s.cfg) := by
  simp [State.start?, h]

/-- Settles O44: `run` decides whether the host has a move, and the checks decide what a start leaves. -/
theorem startRequest : Obligations.StartRequest := by
  refine fun s => ⟨fun hrun => ?_, fun hrun => ⟨fun c => ?_, fun hpass => ?_, fun st hfail => ?_⟩⟩
  · exact ⟨by simp [State.start?, hrun], fun c => by simp [State.configure?, hrun]⟩
  · simp [State.configure?, hrun]
  · rw [State.start?_of_stopped hrun, started_of_check hpass, State.hardReset]
  · rw [State.start?_of_stopped hrun, started_of_failed_check hfail, State.hardReset]

/-! ## The check of one word (R252, R254) -/

theorem checkWord_of_illegal {c : Config} {i : Nat} (h : c.instrAt i = none) :
    checkWord c i = some .decodeError := by
  simp [checkWord, h]

theorem checkWord_of_no_station {c : Config} {i : Nat} {ins : Instr} (h : c.instrAt i = some ins)
    (hcount : c.rsCount.get ins.opcode = 0) : checkWord c i = some .configError := by
  simp [checkWord, h, Instr.hasStation, hcount]

theorem checkWord_of_usable {c : Config} {i : Nat}
    (h : ∃ ins, c.instrAt i = some ins ∧ 1 ≤ c.rsCount.get ins.opcode) : checkWord c i = none := by
  obtain ⟨ins, hins, hcount⟩ := h
  simp [checkWord, hins, Instr.hasStation, hcount]

/-! ## The checks in their order (R259) -/

theorem startCheck_of_no_slot {c : Config} (h : c.robSize < 1) : startCheck c = some .configError := by
  simp [startCheck, Config.robSizeOk, Nat.not_le.mpr h]

/-- A latency below 1 gives the configuration error whatever `ROB_SIZE` is, as both checks report that status. -/
theorem startCheck_of_latency {c : Config} (h : ∃ op, c.lat.get op < 1) : startCheck c = some .configError := by
  have hlat : ¬ c.latenciesOk = true := by
    simpa only [latenciesOk_iff, not_forall, Nat.not_le] using h
  simp [startCheck, hlat]

/-- Past the checks of the sizes the words of the program decide. -/
theorem startCheck_of_sizes {c : Config} (hrob : 1 ≤ c.robSize) (hlat : ∀ op, 1 ≤ c.lat.get op) :
    startCheck c = (List.range c.progLen.toNat).findSome? (checkWord c) := by
  simp [startCheck, Config.robSizeOk, hrob, (latenciesOk_iff c).mpr hlat]

/-- The answer over a range is that of the least index with an answer. -/
theorem findSome?_range_eq_some {α : Type} {f : Nat → Option α} {i n : Nat} {a : α} (hi : i < n) (ha : f i = some a)
    (hbefore : ∀ j, j < i → f j = none) : (List.range n).findSome? f = some a := by
  obtain ⟨m, rfl⟩ := Nat.exists_eq_add_of_lt hi
  have hnone : (List.range i).findSome? f = none :=
    List.findSome?_eq_none_iff.mpr fun j hj => hbefore j (List.mem_range.mp hj)
  rw [Nat.add_assoc, List.range_add, List.range_succ_eq_map]
  simp [List.findSome?_append, hnone, ha]

/-- Settles O43: the first word with an answer gives the status, and the words before it have none. -/
theorem startChecksInOrder : Obligations.StartChecksInOrder := by
  refine fun c => ⟨startCheck_of_no_slot, startCheck_of_latency, fun hrob hlat => ?_⟩
  rw [startCheck_of_sizes hrob hlat]
  refine ⟨fun hall => ?_, fun i hi hbefore => ?_⟩
  · exact List.findSome?_eq_none_iff.mpr fun i hi => checkWord_of_usable (hall i (List.mem_range.mp hi))
  · have hfirst : ∀ st, checkWord c i = some st → (List.range c.progLen.toNat).findSome? (checkWord c) = some st :=
      fun st hst => findSome?_range_eq_some hi hst fun j hj => checkWord_of_usable (hbefore j hj)
    exact ⟨fun hnone => hfirst _ (checkWord_of_illegal hnone),
      fun ins hins hcount => hfirst _ (checkWord_of_no_station hins hcount)⟩

end Sys2Proof.Machine
end
